-- ==== Sys2Proof/Word.lean ====
section
/-! DEFINITION. The word type: a bit pattern of a stated width, bit 0 least significant (R12). -/

namespace Sys2Proof

/-- A bit pattern of `w` bits; `v.getLsbD i` is the spec's `v[i]`, bit 0 the least significant (R12). -/
abbrev Word (w : Nat) : Type := BitVec w

/-- `zext_N(v)`: `v` extended to `n` bits with zeros on the left (R12). -/
abbrev zext {w : Nat} (n : Nat) (v : Word w) : Word n := v.setWidth n

/-- `trunc_N(v)`: the `n` low bits of `v` (R12). -/
abbrev trunc {w : Nat} (n : Nat) (v : Word w) : Word n := v.setWidth n

end Sys2Proof
end

