-- ==== Sys2Proof/Config.lean ====
section
/-! DEFINITION. The parameters of the bridge (R5 to R10), the static assertions a configuration must pass
(R231 to R236), the two reference configurations (R11), and the free values of the model. -/

namespace Sys2Proof

/-- A parameter set as an implementer offers it, before any check (R5 to R10). -/
structure Params where
  /-- `W_COEFF`, the half-width (R5). -/
  wCoeff : Nat
  /-- `W_STATE`, the width of a state memory word (R5). -/
  wState : Nat
  /-- `W_WORD`, the narrowest data word that must fit (R5). -/
  wWord : Nat
  /-- The width of the storage word of the coefficient memory the engine supplies (R232). -/
  wStore : Nat
  /-- `CAW`, the coefficient memory's address width (R6). -/
  caw : Nat
  /-- `SAW`, the state memory's address width (R6). -/
  saw : Nat
  /-- `AW`, the width of the address bus (R6, R234). -/
  aw : Nat
  /-- `W_PROFILE`, the number of bits of a profile index (R8). -/
  wProfile : Nat
  /-- `N_CH`, the number of channels (R8). -/
  nCh : Nat
  /-- `STATUS_START_BIT` (R10, R113). -/
  statusStartBit : Nat
  /-- `STATUS_DONE_BIT` (R10, R113). -/
  statusDoneBit : Nat
  /-- `CFG_DATA_BIT` (R10, R112). -/
  cfgDataBit : Nat
  /-- `CTRL_EN_OUT_BIT` (R10, R115). -/
  ctrlEnOutBit : Nat
  /-- `CTRL_EN_IIR_BIT` (R10, R115). -/
  ctrlEnIirBit : Nat
  /-- `CTRL_PROFILE_LSB` (R10, R115). -/
  ctrlProfileLsb : Nat
  /-- `state_mem_init`, the content of the state memory at power-up as (address, word) pairs, every other
  word 0 (R52, R263). -/
  stateMemInit : List (Nat × Nat)
deriving DecidableEq, Repr

/-- The name of each condition a parameter set must meet (R231 to R235, and the side conditions that
decisions D3, D4 and D6 put on the bit positions of R10). -/
inductive Assertion where
  /-- R231: `W_STATE >= W_COEFF`. -/
  | stateWidth
  /-- R232: the coefficient storage word is `2 * W_COEFF` bits wide. -/
  | storageWidth
  /-- R233: `W_COEFF >= W_WORD`. -/
  | narrowestWord
  /-- R234: `AW = 3 + max(CAW, SAW)`. -/
  | addressBus
  /-- R235: `W_COEFF >= 2`. -/
  | halfWidthBound
  /-- R235: `W_WORD >= 1`. -/
  | wordBound
  /-- D3: `STATUS_START_BIT` and `STATUS_DONE_BIT` distinct, both below `W_COEFF`. -/
  | statusBits
  /-- D4: `CFG_DATA_BIT` is a bit of the data bus. -/
  | configBit
  /-- D6: the control-word fields are disjoint and inside `W_CTRL`. -/
  | controlFields
deriving DecidableEq, Repr

/-- `LOW_W = max(CAW, SAW)`, the width of the low address field (R6). -/
def Params.lowW (p : Params) : Nat := max p.caw p.saw

/-- `W_CTRL = W_PROFILE + 2`, the width of the control word (R8). -/
def Params.wCtrl (p : Params) : Nat := p.wProfile + 2

/-- The width of the hidden part of a state word, `W_STATE - W_COEFF` (R63). -/
def Params.wHidden (p : Params) : Nat := p.wState - p.wCoeff

/-- D3: the two status bits are distinct bits of the read data. -/
abbrev Params.StatusBitsFit (p : Params) : Prop :=
  p.statusStartBit ≠ p.statusDoneBit ∧ p.statusStartBit < p.wCoeff ∧ p.statusDoneBit < p.wCoeff

/-- D6: the three fields of the control word are disjoint and lie inside `W_CTRL` bits. -/
abbrev Params.ControlFieldsFit (p : Params) : Prop :=
  p.ctrlEnOutBit ≠ p.ctrlEnIirBit ∧ p.ctrlEnOutBit < p.wCtrl ∧ p.ctrlEnIirBit < p.wCtrl ∧
    p.ctrlProfileLsb + p.wProfile ≤ p.wCtrl ∧
    (p.ctrlEnOutBit < p.ctrlProfileLsb ∨ p.ctrlProfileLsb + p.wProfile ≤ p.ctrlEnOutBit) ∧
    (p.ctrlEnIirBit < p.ctrlProfileLsb ∨ p.ctrlProfileLsb + p.wProfile ≤ p.ctrlEnIirBit)

/-- `a` named in a list when its condition `ok` fails. -/
def Assertion.unless (a : Assertion) (ok : Bool) : List Assertion := if ok then [] else [a]

/-- Every assertion that a parameter set violates, by name (R231 to R236). -/
def Params.violations (p : Params) : List Assertion :=
  Assertion.stateWidth.unless (decide (p.wCoeff ≤ p.wState)) ++
  Assertion.storageWidth.unless (decide (p.wStore = 2 * p.wCoeff)) ++
  Assertion.narrowestWord.unless (decide (p.wWord ≤ p.wCoeff)) ++
  Assertion.addressBus.unless (decide (p.aw = 3 + p.lowW)) ++
  Assertion.halfWidthBound.unless (decide (2 ≤ p.wCoeff)) ++
  Assertion.wordBound.unless (decide (1 ≤ p.wWord)) ++
  Assertion.statusBits.unless (decide p.StatusBitsFit) ++
  Assertion.configBit.unless (decide (p.cfgDataBit < p.wCoeff)) ++
  Assertion.controlFields.unless (decide p.ControlFieldsFit)

/-- A legal configuration: a parameter set with the proof that it violates no assertion, so that no step is
ever taken under an illegal parameter set (R236). -/
structure Config extends Params where
  /-- Every static assertion holds (R231 to R235). -/
  legal : toParams.violations = []
deriving DecidableEq, Repr

/-- Elaboration of a parameter set: the configuration, or the names of the assertions it violates (R236). -/
def Config.make (p : Params) : Except (List Assertion) Config :=
  if h : p.violations = [] then .ok { toParams := p, legal := h } else .error p.violations

/-- The parameters of CFG-A (R11): the source's scenario completed with the spec's own choices. -/
def Params.cfgA : Params where
  wCoeff := 18
  wState := 18
  wWord := 16
  wStore := 36
  caw := 4
  saw := 4
  aw := 7
  wProfile := 5
  nCh := 8
  statusStartBit := 0
  statusDoneBit := 1
  cfgDataBit := 0
  ctrlEnOutBit := 0
  ctrlEnIirBit := 1
  ctrlProfileLsb := 2
  stateMemInit := []

/-- The parameters of CFG-B (R11): a hidden part of 7 bits, and a state address wider than the coefficient one. -/
def Params.cfgB : Params := { Params.cfgA with wState := 25, saw := 5, aw := 8 }

/-- CFG-A (R11). -/
def Config.cfgA : Config := { toParams := Params.cfgA, legal := by decide }

/-- CFG-B (R11). -/
def Config.cfgB : Config := { toParams := Params.cfgB, legal := by decide }

/-! The free values: no body, so nothing can be proved of them. Each is applied to the plain counter
`draws` of the state, so that two draws are unrelated (log entries 5, 6, 11 and 12), but for `anyTickGap`, whose schedule is
read at the cycle's number `time` (log entry 8). -/

/-- FREE VALUE. The read data `i_data` in a cycle with `i_stb = 0` (R166, D13). -/
opaque Config.anyReadData : Nat → Nat

/-- FREE VALUE. The hidden part that the write data of the state port carries (R141, R144, D9). -/
opaque Config.anyHidden : Nat → Nat

/-- FREE VALUE. The word at a location that the engine may have written (R86). -/
opaque Config.anyEngineWord : Nat → Nat

/-- FREE VALUE. The engine's `done` input in a cycle that no listed input describes (R191, D18). -/
opaque Config.anyDone : Nat → Bool

/-- FREE VALUE. The number of cycles without an update point that stand before the next one, for each update point of the
schedule past the listed inputs. Every admissible schedule (R9, R187, D12) is the one of some such numbers. -/
opaque Config.anyTickGap : Nat → Nat

end Sys2Proof
end

