-- ==== Sys2Proof/Machine/Operands.lean ====
section
/-! DEFINITION. Every data transformation of the bridge (R222): replication, placement, slicing, selection,
concatenation, field extraction and truncation. Nothing here adds, compares or shifts by a variable amount. -/

namespace Sys2Proof.Machine

/-- The low address field that an operand `a` gives, cut to `LOW_W` bits (R104, R116). -/
def lowField (c : Config) (a : Nat) : Word c.lowW := BitVec.ofNat c.lowW a

/-- The data-bus word that an operand `d` gives, cut to `W_COEFF` bits (R110, R116). -/
def busData (c : Config) (d : Nat) : Word c.wCoeff := BitVec.ofNat c.wCoeff d

/-- `coeff_adr = o_address[CAW-1:0]`: higher bits of the low field are ignored (R65). -/
def coeffAdr (c : Config) (low : Word c.lowW) : Word c.caw := trunc c.caw low

/-- `state_adr = o_address[SAW-1:0]`: higher bits of the low field are ignored (R66). -/
def stateAdr (c : Config) (low : Word c.lowW) : Word c.saw := trunc c.saw low

/-- `coeff_dat_w = {o_data, o_data}` (R141). -/
def replicateData {w : Nat} (d : Word w) : Word (w + w) := d ++ d

/-- The low half of a coefficient word, `w[W_COEFF-1:0]` (R61). -/
def lowHalf {w : Nat} (v : Word (w + w)) : Word w := v.extractLsb' 0 w

/-- The high half of a coefficient word, `w[2*W_COEFF-1:W_COEFF]` (R61). -/
def highHalf {w : Nat} (v : Word (w + w)) : Word w := v.extractLsb' w w

/-- The word a half-granular write leaves: bit 0 of `en` lets the low half of `new` in, bit 1 the high half (R68). -/
def mergeHalves {w : Nat} (old new : Word (w + w)) (en : Word 2) : Word (w + w) :=
  (if en.getLsbD 1 then highHalf new else highHalf old) ++ (if en.getLsbD 0 then lowHalf new else lowHalf old)

/-- The exposed part of a state word, its top `W_COEFF` bits (R63). -/
def exposedPart (c : Config) (s : Word c.wState) : Word c.wCoeff := s.extractLsb' c.wHidden c.wCoeff

/-- The hidden part of a state word, its low `W_STATE - W_COEFF` bits (R63). -/
def hiddenPart (c : Config) (s : Word c.wState) : Word c.wHidden := s.extractLsb' 0 c.wHidden

/-- `state_dat_w = {o_data, h}` (R141, R144). -/
def placeTop (c : Config) (d : Word c.wCoeff) (h : Word c.wHidden) : Word c.wState :=
  zext c.wState (d ++ h)

/-- The bit of the data bus that WRCFG captures, `o_data[CFG_DATA_BIT]` (R112). -/
def configBit (c : Config) (d : Word c.wCoeff) : Bool := d.getLsbD c.cfgDataBit

/-- A data word with `b` at `CFG_DATA_BIT` and 0 elsewhere, the canonical data of WRCFG (R112). -/
def configData (c : Config) (b : Bool) : Word c.wCoeff := zext c.wCoeff (BitVec.ofBool b) <<< c.cfgDataBit

/-- `ctrl_en_out`, the output-enable of a control word (R44, R115). -/
def ctrlEnOut (c : Config) (v : Word c.wCtrl) : Bool := v.getLsbD c.ctrlEnOutBit

/-- `ctrl_en_iir`, the IIR-enable of a control word (R44, R115). -/
def ctrlEnIir (c : Config) (v : Word c.wCtrl) : Bool := v.getLsbD c.ctrlEnIirBit

/-- `ctrl_profile`, the profile index of a control word (R44, R115). -/
def ctrlProfile (c : Config) (v : Word c.wCtrl) : Word c.wProfile := v.extractLsb' c.ctrlProfileLsb c.wProfile

/-- The control word with the three given fields; a profile of more than `W_PROFILE` bits is cut (R115, R116). -/
def packCtrl (c : Config) (profile : Nat) (enIir enOut : Bool) : Word c.wCtrl :=
  zext c.wCtrl (BitVec.ofNat c.wProfile profile) <<< c.ctrlProfileLsb |||
    zext c.wCtrl (BitVec.ofBool enIir) <<< c.ctrlEnIirBit |||
    zext c.wCtrl (BitVec.ofBool enOut) <<< c.ctrlEnOutBit

end Sys2Proof.Machine
end

