-- ==== Sys2Proof/Syntax.lean ====
section
/-! DEFINITION. The operations of the bridge, one constructor per row of spec/opcode_table.json (R120, R121),
and the two request formats they arrive in (R100). Operands are numbers; the buses that carry them cut them to
their widths (R116). -/

namespace Sys2Proof

/-- One operation: a request on the memory bus (R120) or on one channel's control bus (R121). -/
inductive Instr where
  /-- NOP: no strobe on the memory bus (R140). -/
  | nop
  /-- RDCL `a`: read the low half of coefficient word `a` (R167). -/
  | rdcl (a : Nat)
  /-- RDCH `a`: read the high half of coefficient word `a` (R168). -/
  | rdch (a : Nat)
  /-- RDST `a`: read the exposed part of state word `a` (R169). -/
  | rdst (a : Nat)
  /-- RDSTATUS: read the status value (R182); `low` selects nothing and is kept only because the read captures
  it in `rd_adr`. -/
  | rdstatus (low : Nat)
  /-- WRCL `a, d`: write the low half of coefficient word `a` (R142). -/
  | wrcl (a d : Nat)
  /-- WRCH `a, d`: write the high half of coefficient word `a` (R143). -/
  | wrch (a d : Nat)
  /-- WRST `a, d`: write the exposed part of state word `a` (R144). -/
  | wrst (a d : Nat)
  /-- WRCFG `b`: write the config register (R181). -/
  | wrcfg (b : Bool)
  /-- CNOP: no strobe on the control bus of channel `ch` (R203). -/
  | cnop (ch : Nat)
  /-- WRCTRL `profile, en_iir, en_out` on the control bus of channel `ch` (R201). -/
  | wrctrl (ch profile : Nat) (enIir enOut : Bool)
deriving DecidableEq, Repr

/-- SMB-REQ: one request on the memory bus, the triple (`o_stb`, `o_address`, `o_data`) (R21, R100). -/
structure SmbReq (c : Config) where
  /-- `o_stb`. -/
  stb : Bool
  /-- `o_address`, `AW` bits. -/
  address : Word c.aw
  /-- `o_data`, `W_COEFF` bits. -/
  data : Word c.wCoeff
deriving DecidableEq, Repr

/-- CCR-REQ: one request on a channel's control bus, the pair (`c_stb`, `c_data`) (R43, R100). -/
structure CcrReq (c : Config) where
  /-- `c_stb`. -/
  stb : Bool
  /-- `c_data`, `W_CTRL` bits. -/
  data : Word c.wCtrl
deriving DecidableEq, Repr

/-- A request with the bus it stands on: the one memory bus, or the control bus of channel `ch` (R100, R244:
the channels are told apart only by which bus reaches them). -/
inductive Request (c : Config) where
  /-- A request on the memory bus. -/
  | smb (r : SmbReq c)
  /-- A request on the control bus of channel `ch`. -/
  | ccr (ch : Nat) (r : CcrReq c)
deriving DecidableEq, Repr

/-- The memory bus with no request, every ignored line at its canonical 0 (R123, R124). -/
def SmbReq.idle (c : Config) : SmbReq c := { stb := false, address := 0, data := 0 }

/-- A control bus with no request, `c_data` at its canonical 0 (R121). -/
def CcrReq.idle (c : Config) : CcrReq c := { stb := false, data := 0 }

end Sys2Proof
end

