-- ==== Sys2Proof/WellFormed.lean ====
section
/-! DEFINITION. Which operations a configuration's buses can carry (`wellFormed`), and which of them are in the
canonical encoding of R107, R108 and R123 (`canonical`). -/

namespace Sys2Proof

/-- The operation's operands fit the buses of configuration `c`: an address fits the low field (R104), a data
word the data bus (R21), a profile its field (R8), and the channel exists (R8). -/
def wellFormed (c : Config) : Instr → Bool
  | .nop => true
  | .rdcl a => decide (a < 2 ^ c.lowW)
  | .rdch a => decide (a < 2 ^ c.lowW)
  | .rdst a => decide (a < 2 ^ c.lowW)
  | .rdstatus low => decide (low < 2 ^ c.lowW)
  | .wrcl a d => decide (a < 2 ^ c.lowW) && decide (d < 2 ^ c.wCoeff)
  | .wrch a d => decide (a < 2 ^ c.lowW) && decide (d < 2 ^ c.wCoeff)
  | .wrst a d => decide (a < 2 ^ c.lowW) && decide (d < 2 ^ c.wCoeff)
  | .wrcfg _ => true
  | .cnop ch => decide (ch < c.nCh)
  | .wrctrl ch profile _ _ => decide (ch < c.nCh) && decide (profile < 2 ^ c.wProfile)

/-- The operation is well formed and its address names a word without aliasing (`a < 2^CAW` or `a < 2^SAW`,
R107), and the low field of a status read is 0 (R108). The hardware accepts the others too (R122). -/
def canonical (c : Config) (i : Instr) : Bool :=
  wellFormed c i && match i with
  | .rdcl a => decide (a < 2 ^ c.caw)
  | .rdch a => decide (a < 2 ^ c.caw)
  | .wrcl a _ => decide (a < 2 ^ c.caw)
  | .wrch a _ => decide (a < 2 ^ c.caw)
  | .rdst a => decide (a < 2 ^ c.saw)
  | .wrst a _ => decide (a < 2 ^ c.saw)
  | .rdstatus low => decide (low = 0)
  | .nop => true
  | .wrcfg _ => true
  | .cnop _ => true
  | .wrctrl _ _ _ _ => true

end Sys2Proof
end

