-- ==== Sys2Proof/Decode.lean ====
section
/-! DEFINITION. The decoder: the fields of a request (R101 to R104), the operation map (R120, R121) and the request
word of spec/opcode_table.json; after it the encoder (R107, R108, R115). Every request decodes (R122). -/

namespace Sys2Proof

open Sys2Proof.Machine

/-- `we = o_address[AW-1]` (R101). -/
def SmbReq.we {c : Config} (r : SmbReq c) : Bool := r.address.getLsbD (c.aw - 1)

/-- `state_sel = o_address[AW-2]` (R102). -/
def SmbReq.stateSel {c : Config} (r : SmbReq c) : Bool := r.address.getLsbD (c.aw - 2)

/-- `sel3 = o_address[AW-3]`: `high_coeff` or `config_sel` (R103). -/
def SmbReq.sel3 {c : Config} (r : SmbReq c) : Bool := r.address.getLsbD (c.aw - 3)

/-- `low = o_address[LOW_W-1:0]` (R104). -/
def SmbReq.low {c : Config} (r : SmbReq c) : Word c.lowW := trunc c.lowW r.address

/-- The operation map of the memory bus, selected by `o_stb` and `{we, state_sel, sel3}` alone (R106, R120). -/
def decodeSmb (c : Config) (r : SmbReq c) : Instr :=
  match r.stb, r.we, r.stateSel, r.sel3 with
  | false, _, _, _ => .nop
  | true, false, false, false => .rdcl r.low.toNat
  | true, false, false, true => .rdch r.low.toNat
  | true, false, true, false => .rdst r.low.toNat
  | true, false, true, true => .rdstatus r.low.toNat
  | true, true, false, false => .wrcl r.low.toNat r.data.toNat
  | true, true, false, true => .wrch r.low.toNat r.data.toNat
  | true, true, true, false => .wrst r.low.toNat r.data.toNat
  | true, true, true, true => .wrcfg (configBit c r.data)

/-- The operation map of the control bus of channel `ch` (R121). -/
def decodeCcr (c : Config) (ch : Nat) (r : CcrReq c) : Instr :=
  if r.stb then .wrctrl ch (ctrlProfile c r.data).toNat (ctrlEnIir c r.data) (ctrlEnOut c r.data) else .cnop ch

/-- Why bits are no request: there is no illegal encoding (R122), so only a bus or a word that does not exist. -/
inductive DecodeError where
  /-- The control bus of a channel `ch >= N_CH`, which does not exist (R8). Safe. -/
  | noSuchChannel (ch : Nat)
  /-- A table word whose length is not that of the configuration's `{o_stb, o_address}` in whole bytes. Safe. -/
  | wordLength (nbits : Nat)
deriving DecidableEq, Repr

/-- The operation a request asks for (R106). -/
def decode (c : Config) : Request c → Except DecodeError Instr
  | .smb r => .ok (decodeSmb c r)
  | .ccr ch r => if ch < c.nCh then .ok (decodeCcr c ch r) else .error (.noSuchChannel ch)

/-- The request that a number holds: `o_address` in its `AW` low bits, `o_stb` at bit `AW`, as spec/opcode_table.json
writes `{o_stb, o_address}`, and `o_data` in the bits that count on from there. -/
def SmbReq.ofWord (c : Config) (w : Nat) : SmbReq c where
  stb := w.testBit c.aw
  address := BitVec.ofNat c.aw w
  data := BitVec.ofNat c.wCoeff (w >>> (c.aw + 1))

/-- The number that holds a request, laid out as `SmbReq.ofWord` reads it. -/
def SmbReq.toWord {c : Config} (r : SmbReq c) : Nat :=
  (r.data.toNat <<< (c.aw + 1)) + (r.stb.toNat <<< c.aw) + r.address.toNat

/-- The control request that a number holds: `{c_stb, c_data}` as spec/opcode_table.json writes it. -/
def CcrReq.ofWord (c : Config) (w : Nat) : CcrReq c where
  stb := w.testBit c.wCtrl
  data := BitVec.ofNat c.wCtrl w

/-- The number that holds a control request, laid out as `CcrReq.ofWord` reads it. -/
def CcrReq.toWord {c : Config} (r : CcrReq c) : Nat := (r.stb.toNat <<< c.wCtrl) + r.data.toNat

/-- The memory-bus operation that `nbits` table bits `w` stand for, `nbits` being `{o_stb, o_address}` in whole bytes;
every bit above `nbits` (the data bus) is 0. -/
def decodeWord (c : Config) (nbits w : Nat) : Except DecodeError Instr :=
  if nbits = (c.aw + 1 + 7) / 8 * 8 then decode c (.smb (SmbReq.ofWord c (w % 2 ^ nbits)))
  else .error (.wordLength nbits)

/-- The operation a word of spec/opcode_table.json stands for, the table being written for CFG-A and its words being
read on the memory bus (log entry 14: the words of the two CCR-REQ rows are memory-bus words too). -/
def decodeTableWord (nbits w : Nat) : Option Instr := (decodeWord Config.cfgA nbits w).toOption

/-- `o_address = {we, state_sel, sel3, low}` (R107). -/
def encodeAddress (c : Config) (op3 : Word 3) (low : Nat) : Word c.aw := zext c.aw (op3 ++ lowField c low)

/-- A strobed memory-bus request with the given select bits, low field and data word (R107). -/
def encodeSmb (c : Config) (op3 : Word 3) (low : Nat) (data : Word c.wCoeff) : SmbReq c :=
  { stb := true, address := encodeAddress c op3 low, data := data }

/-- The canonical request of an operation (R107, R108, R112, R115, R123). -/
def encode (c : Config) : Instr → Request c
  | .nop => .smb (SmbReq.idle c)
  | .rdcl a => .smb (encodeSmb c 0b000#3 a 0)
  | .rdch a => .smb (encodeSmb c 0b001#3 a 0)
  | .rdst a => .smb (encodeSmb c 0b010#3 a 0)
  | .rdstatus low => .smb (encodeSmb c 0b011#3 low 0)
  | .wrcl a d => .smb (encodeSmb c 0b100#3 a (busData c d))
  | .wrch a d => .smb (encodeSmb c 0b101#3 a (busData c d))
  | .wrst a d => .smb (encodeSmb c 0b110#3 a (busData c d))
  | .wrcfg b => .smb (encodeSmb c 0b111#3 0 (configData c b))
  | .cnop ch => .ccr ch (CcrReq.idle c)
  | .wrctrl ch profile enIir enOut => .ccr ch { stb := true, data := packCtrl c profile enIir enOut }

end Sys2Proof
end

