-- ==== Sys2Proof/Machine/Flags.lean ====
section
/-! DEFINITION. The status value, the only flag-like value software reads. The bridge has no condition codes and
no operation sets a flag as a side effect (R41). -/

namespace Sys2Proof.Machine

/-- `status = {done, start}`, two bits, bit 0 `start` and bit 1 `done` (R189, R216). DESIGN CHOICE (log entry 2) for status bits at
other places than those of R10: R40 writes the bits of this value at `STATUS_START_BIT` and `STATUS_DONE_BIT`, R189 and R216 at
0 and 1; the model keeps 0 and 1 here, and the parameters move the bits of the status response alone. -/
def statusValue (done start : Bool) : Word 2 := BitVec.ofBool done ++ BitVec.ofBool start

/-- The read data of a status response: `start` at `STATUS_START_BIT`, `done` at `STATUS_DONE_BIT`, every other
bit 0 (R113, R114). -/
def statusResponse (c : Config) (done start : Bool) : Word c.wCoeff :=
  zext c.wCoeff (BitVec.ofBool start) <<< c.statusStartBit |||
    zext c.wCoeff (BitVec.ofBool done) <<< c.statusDoneBit

/-- `o_busy`: hardwired 0 (R22). -/
def busyFlag : Bool := false

end Sys2Proof.Machine
end

