-- ==== Sys2Proof/Machine/Memory.lean ====
section
/-! DEFINITION. A memory of words as a list of (address, word) pairs in one canonical form. The bridge has no bytes
(R74): the unit an address names is a storage word. An unlisted address reads as 0, the initial content (R52, R263). -/

namespace Sys2Proof.Machine

/-- A memory of `w`-bit words: the words that are not 0, by address (R49). -/
abbrev Memory (w : Nat) : Type := List (Nat × Word w)

/-- The word at address `a`; 0 where nothing is listed (R52). -/
def Memory.read {w : Nat} : Memory w → Nat → Word w
  | [], _ => 0
  | (k, v) :: m, a => if k = a then v else Memory.read m a

/-- The cell `(a, v)` put before the first cell of a higher address. -/
def Memory.insert {w : Nat} (a : Nat) (v : Word w) : Memory w → Memory w
  | [] => [(a, v)]
  | (k, u) :: m => if a < k then (a, v) :: (k, u) :: m else (k, u) :: Memory.insert a v m

/-- The memory without the cell at `a`. -/
def Memory.erase {w : Nat} (m : Memory w) (a : Nat) : Memory w := m.filter fun cell => cell.1 != a

/-- The memory with `v` at `a`; a word of 0 is not listed. -/
def Memory.write {w : Nat} (m : Memory w) (a : Nat) (v : Word w) : Memory w :=
  if v = 0 then m.erase a else (m.erase a).insert a v

/-- The canonical form of a memory of `depth` words: addresses strictly rise and lie below `depth`, and no cell
holds the 0 that an unlisted address reads as. -/
abbrev Memory.wf {w : Nat} (depth : Nat) (m : Memory w) : Prop :=
  m.Pairwise (fun x y => x.1 < y.1) ∧ ∀ cell ∈ m, cell.1 < depth ∧ cell.2 ≠ 0

/-- The memory of `2 ^ aw` words holding the given (address, word) pairs, later pairs over earlier ones, addresses
and words cut to their widths; every other word is 0. -/
def Memory.ofCells (aw w : Nat) (cells : List (Nat × Nat)) : Memory w :=
  cells.foldl (fun m cell => m.write (cell.1 % 2 ^ aw) (BitVec.ofNat w cell.2)) []

end Sys2Proof.Machine
end

