-- ==== Sys2Proof/Machine/State.lean ====
section
/-! DEFINITION. The state of the bridge and its environment as plain data: every register of R30 to R35 and R44, the
two memories (R49), the inputs still to come (R215, R220) and the outputs yielded so far (R220). -/

namespace Sys2Proof.Machine

/-- A location that the engine may have written: the engine owns both memories and may change them (R86, R244). -/
inductive EngineWrite where
  /-- The coefficient word at `a` (cut to `CAW` bits). -/
  | coeff (a : Nat)
  /-- The state word at `a` (cut to `SAW` bits). -/
  | state (a : Nat)
deriving DecidableEq, Repr

/-- The inputs of one cycle (R20, R215): what the bus master, the channel masters, the engine, the configuration
clock and reset do in it. -/
structure CycleIn (c : Config) where
  /-- The request on the memory bus (R21). -/
  smb : SmbReq c
  /-- The request on each channel's control bus (R43). -/
  ccr : Vector (CcrReq c) c.nCh
  /-- `done`, from the engine (R26, R191). -/
  done : Bool
  /-- `cfg_tick`: a configuration update point falls at the edge that ends the cycle (R9, R185). -/
  cfgTick : Bool
  /-- Reset is asserted: the request of the cycle is lost (R260, R262). -/
  rst : Bool
  /-- The locations that the engine may have written by the end of the cycle (R86). -/
  engine : List EngineWrite
deriving DecidableEq, Repr

/-- The outputs of one channel's control register (R44, R45). -/
structure ChannelOut (c : Config) where
  /-- `ctrl_stb` (R45). -/
  stb : Bool
  /-- `ctrl_profile` (R44). -/
  profile : Word c.wProfile
  /-- `ctrl_en_iir` (R44). -/
  enIir : Bool
  /-- `ctrl_en_out` (R44). -/
  enOut : Bool
deriving DecidableEq, Repr

/-- The outputs of the bridge in one cycle (R216). -/
structure Outputs (c : Config) where
  /-- `o_busy` (R22). -/
  oBusy : Bool
  /-- `i_stb` (R23, R164). -/
  iStb : Bool
  /-- `i_data` (R23, R165, R166). -/
  iData : Word c.wCoeff
  /-- `coeff_adr` (R24, R65). -/
  coeffAdr : Word c.caw
  /-- `coeff_dat_w` (R24, R141). -/
  coeffDatW : Word (c.wCoeff + c.wCoeff)
  /-- `coeff_we`, bit 0 for the low half and bit 1 for the high half (R24, R141). -/
  coeffWe : Word 2
  /-- `state_adr` (R25, R66). -/
  stateAdr : Word c.saw
  /-- `state_dat_w` (R25, R141). -/
  stateDatW : Word c.wState
  /-- `state_we` (R25, R141). -/
  stateWe : Bool
  /-- `wr_cfg` (R183). -/
  wrCfg : Bool
  /-- `start` (R26, R188). -/
  start : Bool
  /-- `status` (R40, R189). -/
  status : Word 2
  /-- The outputs of each channel (R44, R45). -/
  channels : Vector (ChannelOut c) c.nCh
deriving DecidableEq, Repr

/-- The registers and memories of a bridge built with configuration `c`, and the model's own record of its
environment. -/
@[ext] structure Bridge (c : Config) where
  /-- `rd_pending` (R30). -/
  rdPending : Bool
  /-- `rd_state_sel` (R31). -/
  rdStateSel : Bool
  /-- `rd_sel3` (R32). -/
  rdSel3 : Bool
  /-- `rd_adr`, `LOW_W` bits (R33). -/
  rdAdr : Word c.lowW
  /-- `config` (R34). -/
  config : Bool
  /-- `cfg_pend_valid` (R35). -/
  cfgPendValid : Bool
  /-- `cfg_pend_bit` (R35). -/
  cfgPendBit : Bool
  /-- `ctrl_word` of each channel, `W_CTRL` bits (R44). -/
  ctrlWord : Vector (Word c.wCtrl) c.nCh
  /-- `CoeffMem`, words of `2 * W_COEFF` bits written `{high, low}` (R49, R61). -/
  coeffMem : Memory (c.wCoeff + c.wCoeff)
  /-- `StateMem`, words of `W_STATE` bits (R49). -/
  stateMem : Memory c.wState
  /-- THE MODEL'S OWN: the inputs of the cycles to come, the next one first; past its end the buses are idle
  (R220). -/
  inputs : List (CycleIn c)
  /-- THE MODEL'S OWN: the outputs of the cycles performed, the latest first (R220). -/
  outs : List (Outputs c)
  /-- THE MODEL'S OWN: the number of free values drawn so far, the argument of every free value of Config. -/
  draws : Nat
  /-- THE MODEL'S OWN: the number of steps taken, at which the schedule past the listed inputs is read (R9, R13). -/
  time : Nat
  /-- THE MODEL'S OWN: the locations that the engine may have written in every cycle past the listed inputs; none where
  the single-writer precondition is assumed (R86, R215). -/
  idleEngine : List EngineWrite
  /-- THE MODEL'S OWN: the engine may have written the word of the last read request in the cycle of that request, so that
  its response may be stale (R70, R86, R273). -/
  rdContended : Bool
deriving DecidableEq, Repr

/-- The machine: the configuration it was built with, which no step changes, and the bridge. -/
structure State where
  /-- The parameters, fixed when the hardware is built (R5 to R10, R236). -/
  cfg : Config
  /-- The registers and memories. -/
  br : Bridge cfg
deriving DecidableEq, Repr

/-- Why the machine stops with a fault: NEVER. No operation raises an exception, fault, trap or error response
(R230), so the type has no constructor. -/
inductive Fault where
deriving DecidableEq, Repr

/-- Why the model gives an operation no meaning. -/
inductive Refusal where
  /-- Raised by an arm of `exec` whose instruction has no meaning yet; no arm does. Safe. -/
  | notModelled (mnemonic : String)
  /-- Raised by WRCTRL and CNOP for a channel number `ch >= N_CH`: there is no such bus (R8), so no request decodes
  to it and no step raises it. Safe. -/
  | noSuchChannel (ch : Nat)
deriving DecidableEq, Repr

/-- The bridge of configuration `c` right after power-up and reset: every register at the value of R52, the
coefficient memory all 0, the state memory at `state_mem_init`. -/
def Bridge.powerUp (c : Config) : Bridge c where
  rdPending := false
  rdStateSel := false
  rdSel3 := false
  rdAdr := 0
  config := false
  cfgPendValid := false
  cfgPendBit := false
  ctrlWord := Vector.replicate c.nCh 0
  coeffMem := []
  stateMem := Memory.ofCells c.saw c.wState c.stateMemInit
  inputs := []
  outs := []
  draws := 0
  time := 0
  idleEngine := []
  rdContended := false

/-- The machine of configuration `c` right after power-up (R52, R264). -/
def State.powerUp (c : Config) : State := { cfg := c, br := Bridge.powerUp c }

/-- The machine right after reset (R52, R264), in the reference configuration CFG-A, for which the opcode table is
written (log entry 1). -/
def State.reset : State := State.powerUp Config.cfgA

end Sys2Proof.Machine
end

