-- ==== Sys2Proof/Machine/Ops.lean ====
section
/-! DEFINITION. The named operations over the registers and memories: the memory primitives (R68 to R70), the
pending-read registers (R161, R162), the hand-off into the configuration domain (R184, R185), the control words
(R201), the engine's writes (R86) and reset (R260 to R264).

There is no exception to take and none to return from (R230, R241, R242): the only return to a known state is
`Bridge.resetRegs`. -/

namespace Sys2Proof.Machine

/-- The state goes on with bridge `b`; its configuration stays. -/
def State.become (s : State) (b : Bridge s.cfg) : Host.Outcome State Fault Refusal := .next { cfg := s.cfg, br := b }

/-- `CoeffMem[a]` (R14, R60). -/
def Bridge.coeffWord {c : Config} (b : Bridge c) (a : Word c.caw) : Word (c.wCoeff + c.wCoeff) :=
  b.coeffMem.read a.toNat

/-- `StateMem[a]` (R14, R62). -/
def Bridge.stateWord {c : Config} (b : Bridge c) (a : Word c.saw) : Word c.wState := b.stateMem.read a.toNat

/-- `CoeffWrite(a, v, en)`: each half of word `a` is replaced if its enable is 1 (R68). -/
def Bridge.coeffWrite {c : Config} (b : Bridge c) (a : Word c.caw) (v : Word (c.wCoeff + c.wCoeff)) (en : Word 2) :
    Bridge c :=
  { b with coeffMem := b.coeffMem.write a.toNat (mergeHalves (b.coeffWord a) v en) }

/-- `StateWrite(a, v)`: the whole of word `a` is replaced (R69). -/
def Bridge.stateWrite {c : Config} (b : Bridge c) (a : Word c.saw) (v : Word c.wState) : Bridge c :=
  { b with stateMem := b.stateMem.write a.toNat v }

/-- `CoeffRead`: the word the coefficient memory presents, addressed by `rd_adr` (R70). -/
def Bridge.coeffRead {c : Config} (b : Bridge c) : Word (c.wCoeff + c.wCoeff) := b.coeffWord (coeffAdr c b.rdAdr)

/-- `StateRead`: the word the state memory presents, addressed by `rd_adr` (R70). -/
def Bridge.stateRead {c : Config} (b : Bridge c) : Word c.wState := b.stateWord (stateAdr c b.rdAdr)

/-- A cycle without a read request: `rd_pending <- 0`, the captured selects and address keep their values
(R161, R162). -/
def Bridge.clearPending {c : Config} (b : Bridge c) : Bridge c := { b with rdPending := false }

/-- A read request: `rd_pending <- 1`, the selects and the low address field are captured (R161, R162). That the engine may
write the word in the same cycle is noted when the cycle closes (`Bridge.noteContention`). -/
def Bridge.captureRead {c : Config} (b : Bridge c) (stateSel sel3 : Bool) (low : Word c.lowW) : Bridge c :=
  { b with rdPending := true, rdStateSel := stateSel, rdSel3 := sel3, rdAdr := low, rdContended := false }

/-- A config write reaches the hand-off buffer, over any bit that waits there (R184, R186). -/
def Bridge.handOff {c : Config} (b : Bridge c) (bit : Bool) : Bridge c :=
  { b with cfgPendValid := true, cfgPendBit := bit }

/-- The configuration update point: at an edge with `tick`, the waiting bit, if any, reaches `config` and the
buffer is empty; without `tick` nothing changes (R185). A WRCFG of the same cycle has already reached the buffer,
so its bit is taken directly. -/
def Bridge.updatePoint {c : Config} (b : Bridge c) (tick : Bool) : Bridge c :=
  if tick then { b with config := if b.cfgPendValid then b.cfgPendBit else b.config, cfgPendValid := false } else b

/-- The control word of channel `ch` is loaded (R201); `ch < N_CH` by `h`. -/
def Bridge.loadCtrl {c : Config} (b : Bridge c) (ch : Nat) (h : ch < c.nCh) (v : Word c.wCtrl) : Bridge c :=
  { b with ctrlWord := b.ctrlWord.set ch v h }

/-- A fresh draw: the next free value is a new one. -/
def Bridge.draw {c : Config} (b : Bridge c) : Bridge c := { b with draws := b.draws + 1 }

/-- The hidden part that the write data of the state port carries now: a FREE VALUE (R141, R144, D9). A hidden part of no
bits (`W_STATE = W_COEFF`, R63) has one value only, written so that it evaluates. -/
def Bridge.freeHidden {c : Config} (b : Bridge c) : Word c.wHidden :=
  if c.wHidden = 0 then 0 else BitVec.ofNat c.wHidden (Config.anyHidden b.draws)

/-- The read data of a cycle without a response: a FREE VALUE (R166, D13). -/
def Bridge.freeReadData {c : Config} (b : Bridge c) : Word c.wCoeff :=
  BitVec.ofNat c.wCoeff (Config.anyReadData b.draws)

/-- The engine may have written a location: its word is a FREE VALUE (R86). -/
def Bridge.engineWrite {c : Config} (b : Bridge c) : EngineWrite → Bridge c
  | .coeff a =>
    { b with coeffMem := b.coeffMem.write (a % 2 ^ c.caw) (BitVec.ofNat _ (Config.anyEngineWord b.draws)),
             draws := b.draws + 1 }
  | .state a =>
    { b with stateMem := b.stateMem.write (a % 2 ^ c.saw) (BitVec.ofNat _ (Config.anyEngineWord b.draws)),
             draws := b.draws + 1 }

/-- The location is the one that a read with the given selects and address reads. A status read reads none (R189). -/
def EngineWrite.hits (c : Config) (stateSel sel3 : Bool) (low : Word c.lowW) : EngineWrite → Bool
  | .coeff a => !stateSel && a % 2 ^ c.caw == (coeffAdr c low).toNat
  | .state a => stateSel && !sel3 && a % 2 ^ c.saw == (stateAdr c low).toNat

/-- The location is the one that the captured selects and address name. -/
def Bridge.engineWriteHits {c : Config} (b : Bridge c) (w : EngineWrite) : Bool := w.hits c b.rdStateSel b.rdSel3 b.rdAdr

/-- At the end of a cycle with a read request it is noted whether the engine may have written the word it reads in that same
cycle: whether the memory samples the word before or after is not said (R70, R86, R273). -/
def Bridge.noteContention {c : Config} (b : Bridge c) (engine : List EngineWrite) : Bridge c :=
  if b.rdPending then { b with rdContended := engine.any b.engineWriteHits } else b

/-- The engine may have written each location of a list (R86). -/
def Bridge.engineWrites {c : Config} (b : Bridge c) : List EngineWrite → Bridge c
  | [] => b
  | w :: ws => (b.engineWrite w).engineWrites ws

/-- Reset: every register of both domains takes the value of R52 and the memories keep their content
(R260, R261, R263, R264). -/
def Bridge.resetRegs {c : Config} (b : Bridge c) : Bridge c :=
  { b with rdPending := false, rdStateSel := false, rdSel3 := false, rdAdr := 0, config := false,
           cfgPendValid := false, cfgPendBit := false, ctrlWord := Vector.replicate c.nCh 0, rdContended := false }

end Sys2Proof.Machine
end

