-- ==== Sys2Proof/Machine/Outputs.lean ====
section
/-! DEFINITION. The outputs of a cycle as functions of the registers and of the inputs of the same cycle (R216). While
reset is asserted the strobe reaches no write-enable and no response is given (R262). -/

namespace Sys2Proof.Machine

/-- The request strobe, of no effect while reset is asserted (R262). -/
def CycleIn.strobe {c : Config} (i : CycleIn c) : Bool := i.smb.stb && !i.rst

/-- `wr = o_stb & we` (R141). -/
def CycleIn.wr {c : Config} (i : CycleIn c) : Bool := i.strobe && i.smb.we

/-- `rd = o_stb & ~we` (R161, R217). -/
def CycleIn.rd {c : Config} (i : CycleIn c) : Bool := i.strobe && !i.smb.we

/-- `coeff_we = {wr & ~state_sel & sel3, wr & ~state_sel & ~sel3}` (R141). -/
def CycleIn.coeffWe {c : Config} (i : CycleIn c) : Word 2 :=
  BitVec.ofBool (i.wr && !i.smb.stateSel && i.smb.sel3) ++ BitVec.ofBool (i.wr && !i.smb.stateSel && !i.smb.sel3)

/-- `state_we = wr & state_sel & ~sel3` (R141). -/
def CycleIn.stateWe {c : Config} (i : CycleIn c) : Bool := i.wr && i.smb.stateSel && !i.smb.sel3

/-- `wr_cfg = o_stb & we & state_sel & sel3` (R183). -/
def CycleIn.wrCfg {c : Config} (i : CycleIn c) : Bool := i.wr && i.smb.stateSel && i.smb.sel3

/-- `o_busy = 0` in every cycle, for every input and every state, during reset too (R22, R262). -/
def Bridge.oBusy {c : Config} (_b : Bridge c) (_i : CycleIn c) : Bool := busyFlag

/-- `start = config` (R188). -/
def Bridge.start {c : Config} (b : Bridge c) : Bool := b.config

/-- `i_stb = rd_pending` (R164); a response due when reset strikes is never given (R262). -/
def Bridge.iStb {c : Config} (b : Bridge c) (i : CycleIn c) : Bool := b.rdPending && !i.rst

/-- The read-data multiplexer, selected by the captured selects (R165); `done` is that of the response cycle (R190). -/
def Bridge.readMux {c : Config} (b : Bridge c) (done : Bool) : Word c.wCoeff :=
  match b.rdStateSel, b.rdSel3 with
  | true, true => statusResponse c done b.start
  | true, false => exposedPart c b.stateRead
  | false, true => highHalf b.coeffRead
  | false, false => lowHalf b.coeffRead

/-- The response is open: the engine may have written the word it reads, in the cycle of the request or in this one, so that
the old word, the new one or any other may arrive (R70, R86, R273). A status response reads no memory (R189). -/
def Bridge.responseOpen {c : Config} (b : Bridge c) (i : CycleIn c) : Bool :=
  !(b.rdStateSel && b.rdSel3) && (b.rdContended || i.engine.any b.engineWriteHits)

/-- `i_data`: the multiplexer's value in a cycle with `i_stb = 1`; a free value in any other (R165, R166), and where the
response is open (R86, R273). -/
def Bridge.iData {c : Config} (b : Bridge c) (i : CycleIn c) : Word c.wCoeff :=
  if b.iStb i && !b.responseOpen i then b.readMux i.done else b.freeReadData

/-- The outputs of one channel: the strobe of this cycle beside the fields of the word held before it (R202). DESIGN CHOICE (log
entry 9): the strobe follows `c_stb` while reset is asserted too, as R45 and R202 say of every cycle; R262 says that no request
has any effect then, and does not say whether this output is one. -/
def channelOut (c : Config) (r : CcrReq c) (v : Word c.wCtrl) : ChannelOut c where
  stb := r.stb
  profile := ctrlProfile c v
  enIir := ctrlEnIir c v
  enOut := ctrlEnOut c v

/-- Every output of a cycle (R216). The addresses and write data follow the bus in every cycle (R67). -/
def Bridge.outputs {c : Config} (b : Bridge c) (i : CycleIn c) : Outputs c where
  oBusy := b.oBusy i
  iStb := b.iStb i
  iData := b.iData i
  coeffAdr := coeffAdr c i.smb.low
  coeffDatW := replicateData i.smb.data
  coeffWe := i.coeffWe
  stateAdr := stateAdr c i.smb.low
  stateDatW := placeTop c i.smb.data b.freeHidden
  stateWe := i.stateWe
  wrCfg := i.wrCfg
  start := b.start
  status := statusValue i.done b.start
  channels := Vector.zipWith (channelOut c) i.ccr b.ctrlWord

end Sys2Proof.Machine
end

