-- ==== Sys2Proof/Machine/Cycle.lean ====
section
/-! DEFINITION. The parts of a cycle around its operations: taking the inputs of the cycle, the operations they ask for,
what opens a cycle and what the clock edge that ends it does (R13, R215 to R217). -/

namespace Sys2Proof.Machine

/-- A cycle with request `r` on the memory bus and nothing else: no control request, `done = 0`, no update point, no
reset, no engine write (the defaults of R125). -/
def CycleIn.quiet {c : Config} (r : SmbReq c) : CycleIn c where
  smb := r
  ccr := Vector.replicate c.nCh (CcrReq.idle c)
  done := false
  cfgTick := false
  rst := false
  engine := []

/-- In cycle `t` of the schedule with the given gaps: the number of the next update point, and how many cycles lie before
the one that ends with it. -/
def nextUpdatePoint (gap : Nat → Nat) : Nat → Nat × Nat
  | 0 => (0, gap 0)
  | t + 1 =>
    match nextUpdatePoint gap t with
    | (n, 0) => (n + 1, gap (n + 1))
    | (n, r + 1) => (n, r)

/-- The schedule whose update points have the given gaps between them. Each has infinitely many update points, and every
schedule that does is one of them (R9, R187). -/
def gapSchedule (gap : Nat → Nat) (t : Nat) : Bool := (nextUpdatePoint gap t).2 == 0

/-- The inputs of cycle `time` where no listed ones describe it: the buses idle for ever (R220), `done` is a FREE VALUE (R191),
the update points are those of a FREE admissible schedule (R187), and the engine may write the given locations (R215). No reset
strikes there: DESIGN CHOICE (log entry 9), since the spec has reset available in any state (R260); a reset is modelled by listing
its cycle, before which any number of idle cycles may be listed. -/
def CycleIn.pastEnd (c : Config) (draws time : Nat) (engine : List EngineWrite) : CycleIn c :=
  { CycleIn.quiet (SmbReq.idle c) with
    done := Config.anyDone draws
    cfgTick := gapSchedule Config.anyTickGap time
    engine := engine }

/-- The inputs of the cycle about to be performed (R215). -/
def Bridge.currentIn {c : Config} (b : Bridge c) : CycleIn c :=
  match b.inputs with
  | i :: _ => i
  | [] => CycleIn.pastEnd c b.draws b.time b.idleEngine

/-- The schedule `cfg_tick` that lies ahead: whether an update point ends the `k`-th cycle from now (R9). -/
def Bridge.schedule {c : Config} (b : Bridge c) (k : Nat) : Bool :=
  match b.inputs[k]? with
  | some i => i.cfgTick
  | none => gapSchedule Config.anyTickGap (b.time + k)

/-- The inputs of this cycle are taken, and its number is passed. -/
def Bridge.takeInput {c : Config} (b : Bridge c) : Bridge c := { b with inputs := b.inputs.tail, time := b.time + 1 }

/-- The outputs of this cycle are yielded (R220). -/
def Bridge.yieldOutputs {c : Config} (b : Bridge c) (o : Outputs c) : Bridge c := { b with outs := o :: b.outs }

/-- The operations on the control buses of channels `k`, `k + 1`, … (R121). -/
def channelOpsFrom (c : Config) (k : Nat) : List (CcrReq c) → List Instr
  | [] => []
  | r :: rs => decodeCcr c k r :: channelOpsFrom c (k + 1) rs

/-- The operations of a cycle: one on the memory bus and one on each control bus (R215, R219). -/
def cycleOps {c : Config} (i : CycleIn c) : List Instr := decodeSmb c i.smb :: channelOpsFrom c 0 i.ccr.toList

/-- A cycle opens: its inputs are taken and its outputs, functions of the registers before it, are yielded (R216). -/
def State.openCycle (s : State) : State where
  cfg := s.cfg
  br := (s.br.yieldOutputs (s.br.outputs s.br.currentIn)).takeInput

/-- The clock edge that ends a cycle, after the operations' own effects: the configuration update point (R185), the
engine's writes and whether a read of this cycle may have missed one (R86, R273), and a fresh draw for the next cycle's free
values. -/
def Bridge.closeCycle {c : Config} (b : Bridge c) (tick : Bool) (engine : List EngineWrite) : Bridge c :=
  (((b.updatePoint tick).noteContention engine).engineWrites engine).draw

/-- `Bridge.closeCycle` on the state. -/
def State.closeCycle (s : State) (tick : Bool) (engine : List EngineWrite) : State where
  cfg := s.cfg
  br := s.br.closeCycle tick engine

/-- Reset is asserted: the request of the cycle is lost, every register takes its reset value, the memories keep what
they hold but for what the engine may write (R260 to R263). No outputs are yielded. -/
def State.afterReset (s : State) : State where
  cfg := s.cfg
  br := s.br.takeInput.resetRegs.engineWrites s.br.currentIn.engine

/-- The state with the memory-bus request that the number `w` holds (`SmbReq.ofWord`, `nbits` of its bits, the rest 0) as
the next cycle's only request, before the inputs already listed. -/
def State.withRequestWord (s : State) (nbits w : Nat) : State where
  cfg := s.cfg
  br := { s.br with inputs := CycleIn.quiet (SmbReq.ofWord s.cfg (w % 2 ^ nbits)) :: s.br.inputs }

end Sys2Proof.Machine
end

