-- ==== Sys2Proof/Machine/ChannelControl.lean ====
section
/-! DEFINITION. The per-channel control register: WRCTRL, CNOP (43_channel_control.md). -/

namespace Sys2Proof.Machine

/-- CNOP on channel `ch` (R203): the control word keeps its value. -/
def execCnop (ch : Nat) (s : State) : Host.Outcome State Fault Refusal :=
  if ch < s.cfg.nCh then s.become s.br else .refused (.noSuchChannel ch)

/-- WRCTRL on channel `ch` (R201): the whole control word is loaded from the packed fields. -/
def execWrctrl (ch profile : Nat) (enIir enOut : Bool) (s : State) : Host.Outcome State Fault Refusal :=
  if h : ch < s.cfg.nCh then s.become (s.br.loadCtrl ch h (packCtrl s.cfg profile enIir enOut))
  else .refused (.noSuchChannel ch)

end Sys2Proof.Machine
end

