-- ==== Sys2Proof/Machine/ConfigStatus.lean ====
section
/-! DEFINITION. The config register and the status value: WRCFG, RDSTATUS (42_config_status_ops.md). -/

namespace Sys2Proof.Machine

/-- WRCFG `b` (R181): neither memory is written, `rd_pending <- 0`, and `b` reaches the hand-off buffer, from which the
configuration update point of this cycle or a later one takes it (R184, R185). -/
def execWrcfg (b : Bool) (s : State) : Host.Outcome State Fault Refusal := s.become (s.br.clearPending.handOff b)

/-- RDSTATUS (R182): `rd_pending <- 1`, selects 1 and 1, `rd_adr <- low`. -/
def execRdstatus (low : Nat) (s : State) : Host.Outcome State Fault Refusal :=
  s.become (s.br.captureRead true true (lowField s.cfg low))

end Sys2Proof.Machine
end

