-- ==== Sys2Proof/Machine/MemoryRead.lean ====
section
/-! DEFINITION. The memory reads: RDCL, RDCH, RDST (41_read_ops.md). Each captures its request; the response of the
next cycle is the read-data multiplexer of Machine/Outputs.lean. -/

namespace Sys2Proof.Machine

/-- RDCL `a` (R167): `rd_pending <- 1`, selects 0 and 0, `rd_adr <- a`. -/
def execRdcl (a : Nat) (s : State) : Host.Outcome State Fault Refusal :=
  s.become (s.br.captureRead false false (lowField s.cfg a))

/-- RDCH `a` (R168): `rd_pending <- 1`, selects 0 and 1, `rd_adr <- a`. -/
def execRdch (a : Nat) (s : State) : Host.Outcome State Fault Refusal :=
  s.become (s.br.captureRead false true (lowField s.cfg a))

/-- RDST `a` (R169): `rd_pending <- 1`, selects 1 and 0, `rd_adr <- a`. -/
def execRdst (a : Nat) (s : State) : Host.Outcome State Fault Refusal :=
  s.become (s.br.captureRead true false (lowField s.cfg a))

end Sys2Proof.Machine
end

