-- ==== Sys2Proof/Machine/MemoryWrite.lean ====
section
/-! DEFINITION. The idle cycle and the memory writes: NOP, WRCL, WRCH, WRST (40_memory_write_ops.md). -/

namespace Sys2Proof.Machine

/-- NOP (R140): no memory changes, `rd_pending <- 0`, the captured selects and address keep their values. -/
def execNop (s : State) : Host.Outcome State Fault Refusal := s.become s.br.clearPending

/-- WRCL `a, d` (R142): `CoeffWrite(a, {d, d}, 0b01)`, `rd_pending <- 0`. -/
def execWrcl (a d : Nat) (s : State) : Host.Outcome State Fault Refusal :=
  s.become (s.br.clearPending.coeffWrite (coeffAdr s.cfg (lowField s.cfg a)) (replicateData (busData s.cfg d)) 0b01#2)

/-- WRCH `a, d` (R143): `CoeffWrite(a, {d, d}, 0b10)`, `rd_pending <- 0`. -/
def execWrch (a d : Nat) (s : State) : Host.Outcome State Fault Refusal :=
  s.become (s.br.clearPending.coeffWrite (coeffAdr s.cfg (lowField s.cfg a)) (replicateData (busData s.cfg d)) 0b10#2)

/-- WRST `a, d` (R144): `StateWrite(a, {d, h})` with the hidden part `h` a free value drawn at this write,
`rd_pending <- 0`. -/
def execWrst (a d : Nat) (s : State) : Host.Outcome State Fault Refusal :=
  s.become (s.br.clearPending.stateWrite (stateAdr s.cfg (lowField s.cfg a))
    (placeTop s.cfg (busData s.cfg d) s.br.freeHidden)).draw

end Sys2Proof.Machine
end

