-- ==== Sys2Proof/Machine/Dispatch.lean ====
section
/-! DEFINITION. What each operation does to the state: one arm per constructor of Instr. -/

namespace Sys2Proof.Machine

def exec (i : Instr) (s : State) : Host.Outcome State Fault Refusal :=
  match i with
  | .nop => Sys2Proof.Machine.execNop s
  | .rdcl a => Sys2Proof.Machine.execRdcl a s
  | .rdch a => Sys2Proof.Machine.execRdch a s
  | .rdst a => Sys2Proof.Machine.execRdst a s
  | .rdstatus low => Sys2Proof.Machine.execRdstatus low s
  | .wrcl a d => Sys2Proof.Machine.execWrcl a d s
  | .wrch a d => Sys2Proof.Machine.execWrch a d s
  | .wrst a d => Sys2Proof.Machine.execWrst a d s
  | .wrcfg b => Sys2Proof.Machine.execWrcfg b s
  | .cnop ch => Sys2Proof.Machine.execCnop ch s
  | .wrctrl ch profile enIir enOut => Sys2Proof.Machine.execWrctrl ch profile enIir enOut s

end Sys2Proof.Machine
end

