-- ==== Sys2Proof/Machine/Step.lean ====
section
/-! DEFINITION. One step: one cycle of the bus clock, or a reset (R215 to R220, R260). -/

namespace Sys2Proof.Machine

/-- The operations of a cycle, each on the state the one before leaves; they act on disjoint registers, so the order
does not matter (R219). A stop of one stops the cycle. -/
def runOps : List Instr → State → Host.Outcome State Fault Refusal
  | [], s => .next s
  | i :: is, s =>
    match exec i s with
    | .next t => runOps is t
    | .fault r => .fault r
    | .refused r => .refused r

/-- One cycle (R216, R217), or a reset (R260). -/
def step (s : State) : Host.Outcome State Fault Refusal :=
  if s.br.currentIn.rst then .next s.afterReset
  else
    match runOps (cycleOps s.br.currentIn) s.openCycle with
    | .next t => .next (t.closeCycle s.br.currentIn.cfgTick s.br.currentIn.engine)
    | .fault r => .fault r
    | .refused r => .refused r

/-- The state in which the next cycle's memory-bus request is the one that the table word `w` of `nbits` bits holds. -/
def State.withFetchWord (s : State) (nbits w : Nat) : State := s.withRequestWord nbits w

end Sys2Proof.Machine
end

