-- ==== Sys2Proof/Machine/Listing.lean ====
section
/-! DEFINITION. The registers of the next cycle as the one listing of R217 over the signals of R216, with no decoding into
operations: a second writing of the step, for the statement that the two agree. -/

namespace Sys2Proof.Machine

/-- R217: the bridge after a cycle with inputs `i` and outputs `o`, but for the engine's writes. -/
def Bridge.listing {c : Config} (b : Bridge c) (i : CycleIn c) (o : Outputs c) : Bridge c :=
  let pv := if o.wrCfg then true else b.cfgPendValid
  let pb := if o.wrCfg then configBit c i.smb.data else b.cfgPendBit
  { rdPending := i.rd
    rdStateSel := if i.rd then i.smb.stateSel else b.rdStateSel
    rdSel3 := if i.rd then i.smb.sel3 else b.rdSel3
    rdAdr := if i.rd then i.smb.low else b.rdAdr
    config := if i.cfgTick then (if pv then pb else b.config) else b.config
    cfgPendValid := if i.cfgTick then false else pv
    cfgPendBit := pb
    ctrlWord := Vector.zipWith (fun r v => if r.stb then r.data else v) i.ccr b.ctrlWord
    coeffMem := if o.coeffWe = 0 then b.coeffMem
      else b.coeffMem.write o.coeffAdr.toNat (mergeHalves (b.coeffWord o.coeffAdr) o.coeffDatW o.coeffWe)
    stateMem := if o.stateWe then b.stateMem.write o.stateAdr.toNat o.stateDatW else b.stateMem
    inputs := b.inputs.tail
    outs := o :: b.outs
    draws := if o.stateWe then b.draws + 1 else b.draws
    time := b.time + 1
    idleEngine := b.idleEngine
    rdContended := if i.rd then i.engine.any (EngineWrite.hits c i.smb.stateSel i.smb.sel3 i.smb.low) else b.rdContended }

end Sys2Proof.Machine
end

