-- ==== Sys2Proof/Machine/Pseudo.lean ====
section
/-! DEFINITION. The pseudo-operations of R126: abbreviations for operations in consecutive cycles. -/

namespace Sys2Proof.Machine

/-- `WRC a, hi, lo`: both halves of a coefficient word, low half first (R126). -/
def pseudoWrc (a hi lo : Nat) : List Instr := [.wrcl a lo, .wrch a hi]

/-- `RDC a`: both halves of a coefficient word, low half first (R126). -/
def pseudoRdc (a : Nat) : List Instr := [.rdcl a, .rdch a]

/-- `START` (R126). -/
def pseudoStart : List Instr := [.wrcfg true]

/-- `STOP` (R126). -/
def pseudoStop : List Instr := [.wrcfg false]

end Sys2Proof.Machine
end

