-- ==== Sys2Proof/Safety.lean ====
section
/-! DEFINITION. What counts as a good state and a good run, and the predicates in which statements say what a cycle asks
for and what an operation leaves unchanged. -/

namespace Sys2Proof.Machine

/-- The invariant: both memories are in canonical form and hold no address beyond their depth (R7). -/
def Bridge.Inv {c : Config} (b : Bridge c) : Prop :=
  b.coeffMem.wf (2 ^ c.caw) ∧ b.stateMem.wf (2 ^ c.saw)

/-- `Bridge.Inv` of the state's bridge. -/
def State.Inv (s : State) : Prop := s.br.Inv

/-- `k` steps from `s` answer `t`: no step of them stops. -/
def Reaches (k : Nat) (s t : State) : Prop := Sys2Proof.core.run k s = .next t

/-- An admissible schedule of update points: one with infinitely many (R9, R187). -/
def Admissible (σ : Nat → Bool) : Prop := ∀ t, ∃ u, t ≤ u ∧ σ u = true

/-! What a cycle asks for -/

/-- No reset, and the engine keeps to the single-writer precondition (R86). -/
def CycleIn.Plain {c : Config} (i : CycleIn c) : Prop := i.rst = false ∧ i.engine = []

/-- One half of a coefficient word, the high one if `hi` (R61, R103). -/
def halfOf {w : Nat} (hi : Bool) (v : Word (w + w)) : Word w := if hi then highHalf v else lowHalf v

/-- The cycle holds a write to half `hi` of coefficient word `a` (WRCL, WRCH). -/
def CycleIn.WritesHalf {c : Config} (i : CycleIn c) (hi : Bool) (a : Word c.caw) : Prop :=
  i.smb.stb = true ∧ i.smb.we = true ∧ i.smb.stateSel = false ∧ i.smb.sel3 = hi ∧ coeffAdr c i.smb.low = a

/-- The cycle holds a read of half `hi` of coefficient word `a` (RDCL, RDCH). -/
def CycleIn.ReadsHalf {c : Config} (i : CycleIn c) (hi : Bool) (a : Word c.caw) : Prop :=
  i.smb.stb = true ∧ i.smb.we = false ∧ i.smb.stateSel = false ∧ i.smb.sel3 = hi ∧ coeffAdr c i.smb.low = a

/-- The cycle holds a write to the exposed part of state word `a` (WRST). -/
def CycleIn.WritesExposed {c : Config} (i : CycleIn c) (a : Word c.saw) : Prop :=
  i.smb.stb = true ∧ i.smb.we = true ∧ i.smb.stateSel = true ∧ i.smb.sel3 = false ∧ stateAdr c i.smb.low = a

/-- The cycle holds a read of the exposed part of state word `a` (RDST). -/
def CycleIn.ReadsExposed {c : Config} (i : CycleIn c) (a : Word c.saw) : Prop :=
  i.smb.stb = true ∧ i.smb.we = false ∧ i.smb.stateSel = true ∧ i.smb.sel3 = false ∧ stateAdr c i.smb.low = a

/-- The hand-off buffer after a cycle without an update point, from the buffer before it: a WRCFG replaces what waits
there (R184, R186). -/
def handOffAfter {c : Config} (p : Bool × Bool) (i : CycleIn c) : Bool × Bool :=
  if i.wrCfg then (true, configBit c i.smb.data) else p

/-! What an operation leaves unchanged -/

/-- Every word of the coefficient memory reads as before. -/
def SameCoeff {c : Config} (b b' : Bridge c) : Prop := ∀ a, b'.coeffWord a = b.coeffWord a

/-- Every word of the state memory reads as before. -/
def SameState {c : Config} (b b' : Bridge c) : Prop := ∀ a, b'.stateWord a = b.stateWord a

/-- The captured selects and address of the last read request are as before, and so is whether its word was contended. -/
def SameCapture {c : Config} (b b' : Bridge c) : Prop :=
  b'.rdStateSel = b.rdStateSel ∧ b'.rdSel3 = b.rdSel3 ∧ b'.rdAdr = b.rdAdr ∧ b'.rdContended = b.rdContended

/-- The hand-off buffer is as before. -/
def SameHandOff {c : Config} (b b' : Bridge c) : Prop :=
  b'.cfgPendValid = b.cfgPendValid ∧ b'.cfgPendBit = b.cfgPendBit

/-- The config register and the hand-off buffer are as before. -/
def SameConfig {c : Config} (b b' : Bridge c) : Prop := b'.config = b.config ∧ SameHandOff b b'

/-- Every channel's control word is as before. -/
def SameCtrl {c : Config} (b b' : Bridge c) : Prop := b'.ctrlWord = b.ctrlWord

/-- The model's own record is as before: the inputs to come, the outputs yielded, the cycle's number, and what the engine may
write past the listed inputs. -/
def SameRecord {c : Config} (b b' : Bridge c) : Prop :=
  b'.inputs = b.inputs ∧ b'.outs = b.outs ∧ b'.time = b.time ∧ b'.idleEngine = b.idleEngine

/-- Two bridges agree on everything but the control words and the model's own record: on every register and both
memories of the memory bus. -/
def SameMemoryBus {c : Config} (b b' : Bridge c) : Prop :=
  b'.rdPending = b.rdPending ∧ SameCapture b b' ∧ SameConfig b b' ∧ b'.coeffMem = b.coeffMem ∧
    b'.stateMem = b.stateMem ∧ b'.draws = b.draws

end Sys2Proof.Machine
end

