-- ==== Sys2Proof/Certificates/Slice0/Obligations.lean ====
section
/-! DEFINITION. The statements for the provers. Every statement quantifies over the configuration (`s.cfg` or `c`), so it
holds for every legal parameter set; one that rests on a choice of the model says so and names its log entry. -/

open Sys2Proof Sys2Proof.Machine

/-! ## Configuration -/

/-- R231 to R236: a parameter set is accepted exactly when it meets every static assertion and side condition, and a
refused one is answered with the names of exactly those it violates. The conditions on bit positions are decisions D3, D4 and
D6 (log entry 2), the lower bounds decision D28. -/
def Obligations.ConfigurationAcceptedIffLegal : Prop :=
  ∀ p : Params,
    let bitsFit := p.statusStartBit ≠ p.statusDoneBit ∧ p.statusStartBit < p.wCoeff ∧ p.statusDoneBit < p.wCoeff
    let fieldsFit := p.ctrlEnOutBit ≠ p.ctrlEnIirBit ∧ p.ctrlEnOutBit < p.wProfile + 2 ∧ p.ctrlEnIirBit < p.wProfile + 2 ∧
      p.ctrlProfileLsb + p.wProfile ≤ p.wProfile + 2 ∧
      (p.ctrlEnOutBit < p.ctrlProfileLsb ∨ p.ctrlProfileLsb + p.wProfile ≤ p.ctrlEnOutBit) ∧
      (p.ctrlEnIirBit < p.ctrlProfileLsb ∨ p.ctrlProfileLsb + p.wProfile ≤ p.ctrlEnIirBit)
    ((∃ c, Config.make p = .ok c ∧ c.toParams = p) ↔
      p.wCoeff ≤ p.wState ∧ p.wStore = 2 * p.wCoeff ∧ p.wWord ≤ p.wCoeff ∧ p.aw = 3 + max p.caw p.saw ∧
        2 ≤ p.wCoeff ∧ 1 ≤ p.wWord ∧ bitsFit ∧ p.cfgDataBit < p.wCoeff ∧ fieldsFit) ∧
    ∀ l, Config.make p = .error l →
      l ≠ [] ∧ (.stateWidth ∈ l ↔ p.wState < p.wCoeff) ∧ (.storageWidth ∈ l ↔ p.wStore ≠ 2 * p.wCoeff) ∧
        (.narrowestWord ∈ l ↔ p.wCoeff < p.wWord) ∧ (.addressBus ∈ l ↔ p.aw ≠ 3 + max p.caw p.saw) ∧
        (.halfWidthBound ∈ l ↔ p.wCoeff < 2) ∧ (.wordBound ∈ l ↔ p.wWord < 1) ∧ (.statusBits ∈ l ↔ ¬ bitsFit) ∧
        (.configBit ∈ l ↔ p.wCoeff ≤ p.cfgDataBit) ∧ (.controlFields ∈ l ↔ ¬ fieldsFit)

/-! ## Requests, decoding and encoding -/

/-- R107, R120, R121: decoding the canonical request of any operation that the buses can carry gives the operation back,
with every operand at every value the encoding admits. -/
def Obligations.DecodeOfEncode : Prop :=
  ∀ (c : Config) (i : Instr), wellFormed c i = true → decode c (encode c i) = .ok i

/-- R107: a request that has no ignored bit (a memory write, a control write) is encoded again exactly as it came. -/
def Obligations.EncodeOfDecodeWithoutIgnoredBits : Prop :=
  ∀ (c : Config),
    (∀ r : SmbReq c, r.stb = true → r.we = true → (r.stateSel = false ∨ r.sel3 = false) →
      encode c (decodeSmb c r) = .smb r) ∧
    (∀ (ch : Nat) (r : CcrReq c), r.stb = true → encode c (decodeCcr c ch r) = .ccr ch r)

/-- R122: every request on an existing bus is an operation, and its operands fit the buses. -/
def Obligations.EveryRequestDecodes : Prop :=
  ∀ (c : Config),
    (∀ r : SmbReq c, ∃ i, decode c (.smb r) = .ok i ∧ wellFormed c i = true) ∧
    (∀ (ch : Nat) (r : CcrReq c), ch < c.nCh → ∃ i, decode c (.ccr ch r) = .ok i ∧ wellFormed c i = true)

/-- R106, R120: the operation is selected by `o_stb` and the three select bits alone. -/
def Obligations.SelectBitsChooseOperation : Prop :=
  ∀ (c : Config) (r : SmbReq c),
    (r.stb = false → decodeSmb c r = .nop) ∧
    (r.stb = true → r.we = false → r.stateSel = false → r.sel3 = false → decodeSmb c r = .rdcl r.low.toNat) ∧
    (r.stb = true → r.we = false → r.stateSel = false → r.sel3 = true → decodeSmb c r = .rdch r.low.toNat) ∧
    (r.stb = true → r.we = false → r.stateSel = true → r.sel3 = false → decodeSmb c r = .rdst r.low.toNat) ∧
    (r.stb = true → r.we = false → r.stateSel = true → r.sel3 = true → decodeSmb c r = .rdstatus r.low.toNat) ∧
    (r.stb = true → r.we = true → r.stateSel = false → r.sel3 = false →
      decodeSmb c r = .wrcl r.low.toNat r.data.toNat) ∧
    (r.stb = true → r.we = true → r.stateSel = false → r.sel3 = true →
      decodeSmb c r = .wrch r.low.toNat r.data.toNat) ∧
    (r.stb = true → r.we = true → r.stateSel = true → r.sel3 = false →
      decodeSmb c r = .wrst r.low.toNat r.data.toNat) ∧
    (r.stb = true → r.we = true → r.stateSel = true → r.sel3 = true →
      decodeSmb c r = .wrcfg (r.data.getLsbD c.cfgDataBit))

/-- R105, R115, R120, R203: words written out bit by bit from the encodings decode to their operations: those of vectors V9, V31, V37
and V39 in CFG-A, V38 in CFG-B, and a control word without a strobe, whose data is ignored. That a number is read as
`{o_stb, o_address}` on the memory bus is the model's choice (log entry 14), and the field places of the WRCTRL word are decision
D6 (log entry 2). -/
def Obligations.SampleWordsDecode : Prop :=
  decodeTableWord 8 0b10000101 = some (.rdcl 5) ∧ decodeTableWord 8 0b10010101 = some (.rdch 5) ∧
  decodeTableWord 8 0b10100101 = some (.rdst 5) ∧ decodeTableWord 8 0b10110101 = some (.rdstatus 5) ∧
  decodeTableWord 8 0b11000101 = some (.wrcl 5 0) ∧ decodeTableWord 8 0b11010101 = some (.wrch 5 0) ∧
  decodeTableWord 8 0b11100101 = some (.wrst 5 0) ∧ decodeTableWord 8 0b11110101 = some (.wrcfg false) ∧
  decodeTableWord 8 0b01000101 = some .nop ∧
  decodeSmb Config.cfgB { stb := true, address := 0b11010001, data := 0x15555 } = .wrst 17 0x15555 ∧
  decodeCcr Config.cfgA 3 (CcrReq.ofWord Config.cfgA 0b10100111) = .wrctrl 3 9 true true ∧
  decodeCcr Config.cfgA 3 (CcrReq.ofWord Config.cfgA 0b00100111) = .cnop 3

/-- R100, R105: laying a request out as a number and reading it back gives the request, on both buses. (Where the data bus
stands in the number is the model's choice, log entry 14.) -/
def Obligations.RequestWordRoundTrip : Prop :=
  ∀ (c : Config), (∀ r : SmbReq c, SmbReq.ofWord c r.toWord = r) ∧ (∀ r : CcrReq c, CcrReq.ofWord c r.toWord = r)

/-- R108, R123: these request bits do not change what is decoded: every line but the strobe of an idle memory-bus cycle, the data
word of a read, and the low field and all data bits but one of a config write (decision D14, log entry 20). Not covered here: the
low field of a status read (see StatusResponseIsLive), the address bits above a memory's own width (see AddressesAlias), and the
data of an idle control bus (see IdleChannelKeepsItsWord). -/
def Obligations.UnusedBitsIgnored : Prop :=
  ∀ (c : Config) (stb : Bool) (x y : Word c.aw) (d e : Word c.wCoeff),
    let r : SmbReq c := { stb := stb, address := x, data := d }
    let q : SmbReq c := { stb := stb, address := y, data := e }
    (stb = false → decodeSmb c r = decodeSmb c q) ∧
    (r.we = false → x = y → decodeSmb c r = decodeSmb c q) ∧
    (r.we = true → r.stateSel = true → r.sel3 = true → q.we = true → q.stateSel = true → q.sel3 = true →
      configBit c d = configBit c e → decodeSmb c r = decodeSmb c q)

/-- R116: operands too wide for their bus are cut to its width, with no refusal: the data word and the profile of the spec's own
layout as R116 says. That an over-wide address is cut too, and that a profile is cut to its own field where another field stands
above it, are the model's choices (log entry 19). -/
def Obligations.OverWideOperandsCut : Prop :=
  ∀ (s : State) (a d ch p : Nat) (enIir enOut : Bool),
    exec (.wrcl a d) s = exec (.wrcl (a % 2 ^ s.cfg.lowW) (d % 2 ^ s.cfg.wCoeff)) s ∧
    exec (.wrch a d) s = exec (.wrch (a % 2 ^ s.cfg.lowW) (d % 2 ^ s.cfg.wCoeff)) s ∧
    exec (.wrst a d) s = exec (.wrst (a % 2 ^ s.cfg.lowW) (d % 2 ^ s.cfg.wCoeff)) s ∧
    exec (.wrctrl ch p enIir enOut) s = exec (.wrctrl ch (p % 2 ^ s.cfg.wProfile) enIir enOut) s

/-- Decision D8 (R65, R66; log entry 4): addresses that differ only above a memory's own width name the same word, for
writes and for the word a read answers. -/
def Obligations.AddressesAlias : Prop :=
  ∀ (s : State) (a a' d : Nat),
    (a % 2 ^ s.cfg.caw = a' % 2 ^ s.cfg.caw →
      exec (.wrcl a d) s = exec (.wrcl a' d) s ∧ exec (.wrch a d) s = exec (.wrch a' d) s ∧
      ∃ b b', exec (.rdcl a) s = .next ⟨s.cfg, b⟩ ∧ exec (.rdcl a') s = .next ⟨s.cfg, b'⟩ ∧
        ∀ i, i.rst = false → b.iData i = b'.iData i) ∧
    (a % 2 ^ s.cfg.saw = a' % 2 ^ s.cfg.saw →
      exec (.wrst a d) s = exec (.wrst a' d) s ∧
      ∃ b b', exec (.rdst a) s = .next ⟨s.cfg, b⟩ ∧ exec (.rdst a') s = .next ⟨s.cfg, b'⟩ ∧
        ∀ i, i.rst = false → b.iData i = b'.iData i)

/-! ## Each operation completes, with its result and its frame -/

/-- R140: NOP clears the pending-read flag and leaves everything else. -/
def Obligations.NopCompletes : Prop :=
  ∀ s : State, ∃ b' : Bridge s.cfg, exec .nop s = .next ⟨s.cfg, b'⟩ ∧ b'.rdPending = false ∧ SameCapture s.br b' ∧
    SameConfig s.br b' ∧ SameCtrl s.br b' ∧ SameCoeff s.br b' ∧ SameState s.br b' ∧ SameRecord s.br b'

/-- R142: WRCL puts the data in the low half of the word addressed; its high half and every other word, and every
register but the pending-read flag, stay. -/
def Obligations.WrclCompletes : Prop :=
  ∀ (s : State) (a d : Nat), ∃ b' : Bridge s.cfg, exec (.wrcl a d) s = .next ⟨s.cfg, b'⟩ ∧
    (∀ x, lowHalf (b'.coeffWord x) =
      if x = coeffAdr s.cfg (lowField s.cfg a) then busData s.cfg d else lowHalf (s.br.coeffWord x)) ∧
    (∀ x, highHalf (b'.coeffWord x) = highHalf (s.br.coeffWord x)) ∧
    b'.rdPending = false ∧ SameCapture s.br b' ∧ SameConfig s.br b' ∧ SameCtrl s.br b' ∧ SameState s.br b' ∧
    SameRecord s.br b'

/-- R143: WRCH puts the data in the high half of the word addressed; its low half and every other word, and every
register but the pending-read flag, stay. -/
def Obligations.WrchCompletes : Prop :=
  ∀ (s : State) (a d : Nat), ∃ b' : Bridge s.cfg, exec (.wrch a d) s = .next ⟨s.cfg, b'⟩ ∧
    (∀ x, highHalf (b'.coeffWord x) =
      if x = coeffAdr s.cfg (lowField s.cfg a) then busData s.cfg d else highHalf (s.br.coeffWord x)) ∧
    (∀ x, lowHalf (b'.coeffWord x) = lowHalf (s.br.coeffWord x)) ∧
    b'.rdPending = false ∧ SameCapture s.br b' ∧ SameConfig s.br b' ∧ SameCtrl s.br b' ∧ SameState s.br b' ∧
    SameRecord s.br b'

/-- R144: WRST puts the data in the exposed part of the word addressed and leaves every other word; of the hidden part it
says nothing, for that is a free value (D9, log entry 5). -/
def Obligations.WrstCompletes : Prop :=
  ∀ (s : State) (a d : Nat), ∃ b' : Bridge s.cfg, exec (.wrst a d) s = .next ⟨s.cfg, b'⟩ ∧
    exposedPart s.cfg (b'.stateWord (stateAdr s.cfg (lowField s.cfg a))) = busData s.cfg d ∧
    (∀ x, x ≠ stateAdr s.cfg (lowField s.cfg a) → b'.stateWord x = s.br.stateWord x) ∧
    b'.rdPending = false ∧ SameCapture s.br b' ∧ SameConfig s.br b' ∧ SameCtrl s.br b' ∧ SameCoeff s.br b' ∧
    SameRecord s.br b'

/-- R167: RDCL captures its request and nothing else; in the next cycle the response is the low half of the
word, the engine not writing then (R86). -/
def Obligations.RdclCompletesAndResponds : Prop :=
  ∀ (s : State) (a : Nat), ∃ b' : Bridge s.cfg, exec (.rdcl a) s = .next ⟨s.cfg, b'⟩ ∧
    b'.rdPending = true ∧ b'.rdStateSel = false ∧ b'.rdSel3 = false ∧ b'.rdAdr = lowField s.cfg a ∧ b'.rdContended = false ∧
    (∀ i, i.rst = false → (b'.outputs i).iStb = true) ∧
    (∀ i, i.Plain → (b'.outputs i).iData = lowHalf (s.br.coeffWord (coeffAdr s.cfg (lowField s.cfg a)))) ∧
    SameConfig s.br b' ∧ SameCtrl s.br b' ∧ SameCoeff s.br b' ∧ SameState s.br b' ∧ SameRecord s.br b'

/-- R168: RDCH captures its request and nothing else; in the next cycle the response is the high half of the
word, the engine not writing then (R86). -/
def Obligations.RdchCompletesAndResponds : Prop :=
  ∀ (s : State) (a : Nat), ∃ b' : Bridge s.cfg, exec (.rdch a) s = .next ⟨s.cfg, b'⟩ ∧
    b'.rdPending = true ∧ b'.rdStateSel = false ∧ b'.rdSel3 = true ∧ b'.rdAdr = lowField s.cfg a ∧ b'.rdContended = false ∧
    (∀ i, i.rst = false → (b'.outputs i).iStb = true) ∧
    (∀ i, i.Plain → (b'.outputs i).iData = highHalf (s.br.coeffWord (coeffAdr s.cfg (lowField s.cfg a)))) ∧
    SameConfig s.br b' ∧ SameCtrl s.br b' ∧ SameCoeff s.br b' ∧ SameState s.br b' ∧ SameRecord s.br b'

/-- R169: RDST captures its request and nothing else; in the next cycle the response is the exposed part of the
word, the engine not writing then (R86). -/
def Obligations.RdstCompletesAndResponds : Prop :=
  ∀ (s : State) (a : Nat), ∃ b' : Bridge s.cfg, exec (.rdst a) s = .next ⟨s.cfg, b'⟩ ∧
    b'.rdPending = true ∧ b'.rdStateSel = true ∧ b'.rdSel3 = false ∧ b'.rdAdr = lowField s.cfg a ∧ b'.rdContended = false ∧
    (∀ i, i.rst = false → (b'.outputs i).iStb = true) ∧
    (∀ i, i.Plain → (b'.outputs i).iData = exposedPart s.cfg (s.br.stateWord (stateAdr s.cfg (lowField s.cfg a)))) ∧
    SameConfig s.br b' ∧ SameCtrl s.br b' ∧ SameCoeff s.br b' ∧ SameState s.br b' ∧ SameRecord s.br b'

/-- R182: RDSTATUS captures its request and nothing else. (What the next cycle answers is StatusResponseIsLive.) -/
def Obligations.RdstatusCompletes : Prop :=
  ∀ (s : State) (low : Nat), ∃ b' : Bridge s.cfg, exec (.rdstatus low) s = .next ⟨s.cfg, b'⟩ ∧
    b'.rdPending = true ∧ b'.rdStateSel = true ∧ b'.rdSel3 = true ∧ b'.rdAdr = lowField s.cfg low ∧ b'.rdContended = false ∧
    (∀ i, i.rst = false → (b'.outputs i).iStb = true) ∧
    SameConfig s.br b' ∧ SameCtrl s.br b' ∧ SameCoeff s.br b' ∧ SameState s.br b' ∧ SameRecord s.br b'

/-- R181, R184 (the hand-off buffer is decision D12, log entry 8): WRCFG puts its bit in the hand-off buffer and leaves
`config`, both memories and the control words; at an update point of the same cycle the bit reaches `config`. -/
def Obligations.WrcfgCompletes : Prop :=
  ∀ (s : State) (b : Bool), ∃ b' : Bridge s.cfg, exec (.wrcfg b) s = .next ⟨s.cfg, b'⟩ ∧
    b'.cfgPendValid = true ∧ b'.cfgPendBit = b ∧ b'.config = s.br.config ∧ (b'.updatePoint true).config = b ∧
    b'.rdPending = false ∧ SameCapture s.br b' ∧ SameCtrl s.br b' ∧ SameCoeff s.br b' ∧ SameState s.br b' ∧
    SameRecord s.br b'

/-- R203: CNOP on a channel leaves everything. (That an operation names its channel is the model's form, log entry 15.) -/
def Obligations.CnopCompletes : Prop :=
  ∀ (s : State) (ch : Nat), ch < s.cfg.nCh → ∃ b' : Bridge s.cfg, exec (.cnop ch) s = .next ⟨s.cfg, b'⟩ ∧
    b'.rdPending = s.br.rdPending ∧ SameCapture s.br b' ∧ SameConfig s.br b' ∧ SameCtrl s.br b' ∧ SameCoeff s.br b' ∧
    SameState s.br b' ∧ SameRecord s.br b'

/-- R201: WRCTRL loads the three fields of its channel's control word, a profile of more than `W_PROFILE` bits being cut, and
leaves the other channels and everything of the memory bus. Two things are the model's choices: that the cut profile stays out of
a field placed above it (log entry 19; R116 speaks of the spec's own layout), and that an operation names its channel (log entry
15). -/
def Obligations.WrctrlCompletes : Prop :=
  ∀ (s : State) (ch profile : Nat) (enIir enOut : Bool), ch < s.cfg.nCh →
    ∃ b' : Bridge s.cfg, exec (.wrctrl ch profile enIir enOut) s = .next ⟨s.cfg, b'⟩ ∧
      (∀ (k : Nat) (hk : k < s.cfg.nCh),
        (k = ch → (ctrlProfile s.cfg b'.ctrlWord[k]).toNat = profile % 2 ^ s.cfg.wProfile ∧
          ctrlEnIir s.cfg b'.ctrlWord[k] = enIir ∧ ctrlEnOut s.cfg b'.ctrlWord[k] = enOut) ∧
        (k ≠ ch → b'.ctrlWord[k] = s.br.ctrlWord[k])) ∧
      b'.rdPending = s.br.rdPending ∧ SameCapture s.br b' ∧ SameConfig s.br b' ∧ SameCoeff s.br b' ∧
      SameState s.br b' ∧ SameRecord s.br b'

/-- The model's choice (log entry 15): a control operation on a channel that does not exist is refused by name. -/
def Obligations.AbsentChannelRefused : Prop :=
  ∀ (s : State) (ch profile : Nat) (enIir enOut : Bool), s.cfg.nCh ≤ ch →
    exec (.cnop ch) s = .refused (.noSuchChannel ch) ∧
    exec (.wrctrl ch profile enIir enOut) s = .refused (.noSuchChannel ch)

/-- R76, R142, R143: the two halves of a coefficient word, written one after the other in either order, give the same
word `{hi, lo}`. -/
def Obligations.HalvesInEitherOrder : Prop :=
  ∀ (s : State) (a hi lo : Nat), ∃ b b' : Bridge s.cfg,
    runOps (pseudoWrc a hi lo) s = .next ⟨s.cfg, b⟩ ∧ runOps (pseudoWrc a hi lo).reverse s = .next ⟨s.cfg, b'⟩ ∧
    b.coeffWord (coeffAdr s.cfg (lowField s.cfg a)) = busData s.cfg hi ++ busData s.cfg lo ∧
    (∀ x, x ≠ coeffAdr s.cfg (lowField s.cfg a) → b.coeffWord x = s.br.coeffWord x) ∧ SameCoeff b b'

/-! ## The whole cycle -/

/-- A step runs the operations its inputs decode to: that of the memory bus first, those of the control buses after it, on the
state with the cycle's inputs taken and its outputs yielded; then the clock edge (R215, R217). The order of the operations is the
model's (log entry 18, DEDUCED): R219 says only that none can be seen. -/
def Obligations.StepRunsDecodedOperations : Prop :=
  ∀ (s t u : State), s.br.currentIn.rst = false →
    exec (decodeSmb s.cfg s.br.currentIn.smb) s.openCycle = .next t →
    runOps (channelOpsFrom s.cfg 0 s.br.currentIn.ccr.toList) t = .next u →
    step s = .next (u.closeCycle s.br.currentIn.cfgTick s.br.currentIn.engine)

/-- R230: a step always answers a next state, and so does every operation that the buses can carry. -/
def Obligations.NothingEverStops : Prop :=
  (∀ s : State, ∃ t, step s = .next t) ∧
    ∀ (s : State) (i : Instr), wellFormed s.cfg i = true → ∃ t, exec i s = .next t

/-- R216, R217: for every state whose cycle is no reset, the step by decoded operations gives exactly the registers of the one
listing over the port signals, followed by the engine's writes and the count of draws. -/
def Obligations.StepIsTheListing : Prop :=
  ∀ s : State, s.br.currentIn.rst = false →
    step s = .next ⟨s.cfg, ((s.br.listing s.br.currentIn (s.br.outputs s.br.currentIn)).engineWrites
      s.br.currentIn.engine).draw⟩

/-- R219: operations on different buses commute: the one on the memory bus with one on a control bus, and two on the
control buses of different channels. -/
def Obligations.BusesCommute : Prop :=
  ∀ (s : State) (r : SmbReq s.cfg) (k j : Nat) (p q : CcrReq s.cfg), k < s.cfg.nCh → j < s.cfg.nCh →
    (∃ t, runOps [decodeSmb s.cfg r, decodeCcr s.cfg k p] s = .next t ∧
      runOps [decodeCcr s.cfg k p, decodeSmb s.cfg r] s = .next t) ∧
    (k ≠ j → ∃ t, runOps [decodeCcr s.cfg k p, decodeCcr s.cfg j q] s = .next t ∧
      runOps [decodeCcr s.cfg j q, decodeCcr s.cfg k p] s = .next t)

/-- The invariant of the model that every step keeps: both memories stay in canonical form, with no address beyond their
depth. -/
def Obligations.StepKeepsMemoriesCanonical : Prop :=
  ∀ s t : State, s.Inv → step s = .next t → t.Inv

/-- The invariant holds right after power-up, in every configuration and in the reset state. -/
def Obligations.PowerUpMemoriesCanonical : Prop :=
  (∀ c : Config, (State.powerUp c).Inv) ∧ State.reset.Inv

/-- Canonical memories with the same contents are the same data. -/
def Obligations.CanonicalMemoriesEqualByReads : Prop :=
  ∀ (w depth : Nat) (m m' : Memory w), m.wf depth → m'.wf depth → (∀ a, m.read a = m'.read a) → m = m'

/-- R236: the parameters are fixed when the hardware is built: no step changes the configuration. -/
def Obligations.StepKeepsConfiguration : Prop :=
  ∀ s t : State, step s = .next t → t.cfg = s.cfg

/-- R49, R71: the memories change only by the write operations: a cycle with no write-enable and no engine write leaves
every word of both, and a cycle with one leaves every word but the one addressed. -/
def Obligations.MemoriesChangeOnlyByWrites : Prop :=
  ∀ s : State, s.br.currentIn.Plain → ∃ b' : Bridge s.cfg, step s = .next ⟨s.cfg, b'⟩ ∧
    (∀ x, (s.br.currentIn.coeffWe = 0 ∨ x ≠ coeffAdr s.cfg s.br.currentIn.smb.low) →
      b'.coeffWord x = s.br.coeffWord x) ∧
    (∀ x, (s.br.currentIn.stateWe = false ∨ x ≠ stateAdr s.cfg s.br.currentIn.smb.low) →
      b'.stateWord x = s.br.stateWord x)

/-! ## Reset -/

/-- R52, R263, R264: every register is 0 right after power-up, every coefficient word reads 0, and the state memory holds
`state_mem_init`: a listed address reads its word, any other address reads 0. That the state memory starts so is decision D15; that
a later pair of the list counts over an earlier one, and that addresses and words are cut to their widths, is the model's choice
(both log entry 10); the host's reset state is that of CFG-A (the model's choice, log entry 1). -/
def Obligations.PowerUpState : Prop :=
  (∀ c : Config,
    let b := (State.powerUp c).br
    b.rdPending = false ∧ b.rdStateSel = false ∧ b.rdSel3 = false ∧ b.rdAdr = 0 ∧ b.config = false ∧
      b.cfgPendValid = false ∧ b.cfgPendBit = false ∧ (∀ (k : Nat) (hk : k < c.nCh), b.ctrlWord[k] = 0) ∧
      (∀ a, b.coeffWord a = 0) ∧
      (∀ (before after : List (Nat × Nat)) (a w : Nat), c.stateMemInit = before ++ (a, w) :: after →
        (∀ q ∈ after, q.1 % 2 ^ c.saw ≠ a % 2 ^ c.saw) →
        b.stateWord (BitVec.ofNat c.saw a) = BitVec.ofNat c.wState w) ∧
      (∀ x : Word c.saw, (∀ q ∈ c.stateMemInit, q.1 % 2 ^ c.saw ≠ x.toNat) → b.stateWord x = 0)) ∧
  State.reset = State.powerUp Config.cfgA

/-- R53: the outputs of an idle cycle right after reset, but for `i_data`, which is free. -/
def Obligations.OutputsAfterReset : Prop :=
  ∀ (c : Config) (b : Bridge c) (i : CycleIn c), i.smb.stb = false → (∀ (k : Nat) (hk : k < c.nCh), i.ccr[k].stb = false) →
    let o := b.resetRegs.outputs i
    o.oBusy = false ∧ o.iStb = false ∧ o.coeffWe = 0 ∧ o.stateWe = false ∧ o.start = false ∧
      ∀ (k : Nat) (hk : k < c.nCh), o.channels[k].stb = false ∧ o.channels[k].profile = 0 ∧
        o.channels[k].enIir = false ∧ o.channels[k].enOut = false

/-- Decision D16 (R260 to R263, log entry 9): while reset is asserted the request has no effect, every register takes its
reset value, no outputs are yielded, and the memories keep every word that the engine does not write. -/
def Obligations.ResetWins : Prop :=
  ∀ s : State, s.br.currentIn.rst = true → ∃ b' : Bridge s.cfg, step s = .next ⟨s.cfg, b'⟩ ∧
    b'.rdPending = false ∧ b'.rdStateSel = false ∧ b'.rdSel3 = false ∧ b'.rdAdr = 0 ∧ b'.config = false ∧
    b'.cfgPendValid = false ∧ b'.cfgPendBit = false ∧ b'.ctrlWord = Vector.replicate s.cfg.nCh 0 ∧
    b'.outs = s.br.outs ∧ b'.inputs = s.br.inputs.tail ∧
    (∀ x, (∀ a, EngineWrite.coeff a ∈ s.br.currentIn.engine → a % 2 ^ s.cfg.caw ≠ x.toNat) →
      b'.coeffWord x = s.br.coeffWord x) ∧
    (∀ x, (∀ a, EngineWrite.state a ∈ s.br.currentIn.engine → a % 2 ^ s.cfg.saw ≠ x.toNat) →
      b'.stateWord x = s.br.stateWord x)

/-! ## Outputs -/

/-- R22: `o_busy` is 0 in every cycle, for every input and every state, including during reset. -/
def Obligations.BusyAlwaysZero : Prop :=
  ∀ (c : Config) (b : Bridge c) (i : CycleIn c), b.oBusy i = false ∧ (b.outputs i).oBusy = false

/-- R146: the two half-write-enables are never asserted together; bit 0 needs `sel3 = 0` and bit 1 needs `sel3 = 1`; so a
cycle never changes both halves of a coefficient word (the engine's own writes apart, R86). -/
def Obligations.HalfWriteEnablesExclusive : Prop :=
  (∀ (c : Config) (b : Bridge c) (i : CycleIn c), (b.outputs i).coeffWe ≠ 0b11#2 ∧
    ((b.outputs i).coeffWe.getLsbD 0 = true → i.smb.sel3 = false) ∧
    ((b.outputs i).coeffWe.getLsbD 1 = true → i.smb.sel3 = true)) ∧
  ∀ s : State, s.br.currentIn.Plain → ∃ b' : Bridge s.cfg, step s = .next ⟨s.cfg, b'⟩ ∧
    ∀ x, lowHalf (b'.coeffWord x) = lowHalf (s.br.coeffWord x) ∨ highHalf (b'.coeffWord x) = highHalf (s.br.coeffWord x)

/-- R147: at most one of the four write targets is selected in a cycle, and none without a strobed write; and, by decision D16
(R262, log entry 9), none while reset is asserted. -/
def Obligations.AtMostOneWriteTarget : Prop :=
  ∀ (c : Config) (b : Bridge c) (i : CycleIn c),
    let o := b.outputs i
    ([o.coeffWe.getLsbD 0, o.coeffWe.getLsbD 1, o.stateWe, o.wrCfg].count true =
      if i.smb.stb && i.smb.we && !i.rst then 1 else 0)

/-- R141, R65, R66, R67: the addresses and the write data follow the bus in every cycle, whatever the strobe and the
operation; both halves of the coefficient write data are the data word. -/
def Obligations.PortsFollowTheBus : Prop :=
  ∀ (c : Config) (b : Bridge c) (i : CycleIn c),
    let o := b.outputs i
    o.coeffAdr.toNat = i.smb.address.toNat % 2 ^ c.caw ∧ o.stateAdr.toNat = i.smb.address.toNat % 2 ^ c.saw ∧
      lowHalf o.coeffDatW = i.smb.data ∧ highHalf o.coeffDatW = i.smb.data ∧
      exposedPart c o.stateDatW = i.smb.data

/-- R165: in a response cycle the read data is chosen by the captured selects and read at the captured address; where it comes from a
memory, under the precondition that the engine writes neither in this cycle nor wrote the word in the request's (R86, R273). -/
def Obligations.ReadDataMultiplexer : Prop :=
  ∀ (c : Config) (b : Bridge c) (i : CycleIn c), i.rst = false → b.rdPending = true →
    let o := b.outputs i
    (b.rdStateSel = true → b.rdSel3 = true → o.iData = statusResponse c i.done b.config) ∧
    (i.engine = [] → b.rdContended = false → b.rdStateSel = true → b.rdSel3 = false →
      o.iData = exposedPart c (b.stateWord (stateAdr c b.rdAdr))) ∧
    (i.engine = [] → b.rdContended = false → b.rdStateSel = false → b.rdSel3 = true →
      o.iData = highHalf (b.coeffWord (coeffAdr c b.rdAdr))) ∧
    (i.engine = [] → b.rdContended = false → b.rdStateSel = false → b.rdSel3 = false →
      o.iData = lowHalf (b.coeffWord (coeffAdr c b.rdAdr)))

/-- R188: `start` mirrors the config register in every cycle. -/
def Obligations.StartMirrorsConfig : Prop :=
  ∀ (c : Config) (b : Bridge c) (i : CycleIn c), (b.outputs i).start = b.config

/-- R189, R113, R114: the status value is `{done, start}`, and in a status response the two flags stand at their bits and every
other bit is 0 (the places of the bits and the zeros are decisions D3 and D5, log entries 2 and 3). -/
def Obligations.StatusBits : Prop :=
  ∀ (c : Config) (b : Bridge c) (i : CycleIn c),
    (b.outputs i).status.getLsbD 0 = b.config ∧ (b.outputs i).status.getLsbD 1 = i.done ∧
    ∀ (done start : Bool) (k : Nat),
      (statusResponse c done start).getLsbD k =
        if k = c.statusStartBit then start else if k = c.statusDoneBit then done else false

/-- R63, R189: what a response shows depends on no hidden part of a state word, and a status response on no memory. -/
def Obligations.ResponsesHideHiddenParts : Prop :=
  ∀ (c : Config) (b b' : Bridge c) (done : Bool), SameCapture b b' → b'.config = b.config →
    ((∀ x, exposedPart c (b'.stateWord x) = exposedPart c (b.stateWord x)) → SameCoeff b b' →
      b'.readMux done = b.readMux done) ∧
    (b.rdStateSel = true → b.rdSel3 = true → b'.readMux done = b.readMux done)

/-! ## The read pipeline -/

/-- R161, R170: the pending-read flag after a cycle is 1 exactly if the cycle held a strobed read request, and the read
strobe of the next cycle is that flag. -/
def Obligations.OneResponsePerRead : Prop :=
  ∀ s : State, s.br.currentIn.rst = false → ∃ b' : Bridge s.cfg, step s = .next ⟨s.cfg, b'⟩ ∧
    b'.rdPending = (s.br.currentIn.smb.stb && !s.br.currentIn.smb.we) ∧
    ∀ i, i.rst = false → (b'.outputs i).iStb = (s.br.currentIn.smb.stb && !s.br.currentIn.smb.we)

/-- R162: a strobed read request captures its selects and its low field; every other cycle keeps the three registers. -/
def Obligations.ReadCapturesRequest : Prop :=
  ∀ s : State, s.br.currentIn.rst = false → ∃ b' : Bridge s.cfg, step s = .next ⟨s.cfg, b'⟩ ∧
    (s.br.currentIn.smb.stb = true ∧ s.br.currentIn.smb.we = false →
      b'.rdStateSel = s.br.currentIn.smb.stateSel ∧ b'.rdSel3 = s.br.currentIn.smb.sel3 ∧
        b'.rdAdr = s.br.currentIn.smb.low) ∧
    (¬ (s.br.currentIn.smb.stb = true ∧ s.br.currentIn.smb.we = false) → SameCapture s.br b')

/-- R190: a status read strobed in one cycle is answered in the next with `start` and `done` of that next cycle. -/
def Obligations.StatusResponseIsLive : Prop :=
  ∀ s : State, s.br.currentIn.rst = false → s.br.currentIn.smb.stb = true → s.br.currentIn.smb.we = false →
    s.br.currentIn.smb.stateSel = true → s.br.currentIn.smb.sel3 = true →
    ∃ b' : Bridge s.cfg, step s = .next ⟨s.cfg, b'⟩ ∧ ∀ i, i.rst = false → (b'.outputs i).iStb = true ∧
      (b'.outputs i).iData.getLsbD s.cfg.statusStartBit = b'.config ∧
      (b'.outputs i).iData.getLsbD s.cfg.statusDoneBit = i.done

/-- R171: reads of halves A then B in consecutive cycles are answered for A then B in the two cycles that follow. -/
def Obligations.ReadsPipeline : Prop :=
  ∀ (s : State) (A B X : CycleIn s.cfg) (rest : List (CycleIn s.cfg)) (ha hb : Bool) (a b : Word s.cfg.caw),
    s.br.inputs = A :: B :: X :: rest → A.Plain → B.Plain → X.Plain → A.ReadsHalf ha a → B.ReadsHalf hb b →
    ∃ (b' : Bridge s.cfg) (oB oX : Outputs s.cfg) (os : List (Outputs s.cfg)),
      Reaches 3 s ⟨s.cfg, b'⟩ ∧ b'.outs = oX :: oB :: os ∧
      oB.iStb = true ∧ oB.iData = halfOf ha (s.br.coeffWord a) ∧ oX.iStb = true ∧ oX.iData = halfOf hb (s.br.coeffWord b)

/-- R82: a write of the location being answered, a half of a coefficient word or the exposed part of a state word, does not
change the answer, and takes effect at the end of the same cycle. -/
def Obligations.ReadBeforeWriteReturnsOld : Prop :=
  ∀ (s : State) (R W : CycleIn s.cfg) (rest : List (CycleIn s.cfg)),
    s.br.inputs = R :: W :: rest → R.Plain → W.Plain →
    (∀ (hi : Bool) (a : Word s.cfg.caw), R.ReadsHalf hi a → W.WritesHalf hi a →
      ∃ (b' : Bridge s.cfg) (o : Outputs s.cfg) (os : List (Outputs s.cfg)),
        Reaches 2 s ⟨s.cfg, b'⟩ ∧ b'.outs = o :: os ∧ o.iStb = true ∧ o.iData = halfOf hi (s.br.coeffWord a) ∧
        halfOf hi (b'.coeffWord a) = W.smb.data ∧ b'.rdPending = false) ∧
    (∀ a : Word s.cfg.saw, R.ReadsExposed a → W.WritesExposed a →
      ∃ (b' : Bridge s.cfg) (o : Outputs s.cfg) (os : List (Outputs s.cfg)),
        Reaches 2 s ⟨s.cfg, b'⟩ ∧ b'.outs = o :: os ∧ o.iStb = true ∧ o.iData = exposedPart s.cfg (s.br.stateWord a) ∧
        exposedPart s.cfg (b'.stateWord a) = W.smb.data ∧ b'.rdPending = false)

/-- R81: a read of a half strobed any number of cycles after a write to it returns the written data, if no other write to
that half comes between, whatever else the buses do; under the single-writer precondition (R86) and without reset. -/
def Obligations.CoefficientReadReturnsLastWrite : Prop :=
  ∀ (s : State) (W R X : CycleIn s.cfg) (mid rest : List (CycleIn s.cfg)) (hi : Bool) (a : Word s.cfg.caw),
    s.br.inputs = W :: (mid ++ R :: X :: rest) → W.Plain → (∀ i ∈ mid, i.Plain) → R.Plain → X.Plain →
    W.WritesHalf hi a → (∀ i ∈ mid, ¬ i.WritesHalf hi a) → R.ReadsHalf hi a →
    ∃ (b' : Bridge s.cfg) (o : Outputs s.cfg) (os : List (Outputs s.cfg)),
      Reaches (mid.length + 3) s ⟨s.cfg, b'⟩ ∧ b'.outs = o :: os ∧ o.iStb = true ∧ o.iData = W.smb.data

/-- R81: a read of the exposed part of a state word strobed any number of cycles after a write to it returns the written data,
if no other write to that word comes between; under the single-writer precondition (R86) and without reset. -/
def Obligations.StateReadReturnsLastWrite : Prop :=
  ∀ (s : State) (W R X : CycleIn s.cfg) (mid rest : List (CycleIn s.cfg)) (a : Word s.cfg.saw),
    s.br.inputs = W :: (mid ++ R :: X :: rest) → W.Plain → (∀ i ∈ mid, i.Plain) → R.Plain → X.Plain →
    W.WritesExposed a → (∀ i ∈ mid, ¬ i.WritesExposed a) → R.ReadsExposed a →
    ∃ (b' : Bridge s.cfg) (o : Outputs s.cfg) (os : List (Outputs s.cfg)),
      Reaches (mid.length + 3) s ⟨s.cfg, b'⟩ ∧ b'.outs = o :: os ∧ o.iStb = true ∧ o.iData = W.smb.data

/-- R220: past the end of the listed inputs the bridge idles (log entry 13): a pending response appears in that cycle, no response
follows it, and no captured select, control word or memory word changes, but for the words that the engine may write there (what it
may write past the listed inputs is log entry 11's; none under the single-writer precondition, R86). -/
def Obligations.IdleAfterLastInput : Prop :=
  ∀ s : State, s.br.inputs = [] → ∃ (b' : Bridge s.cfg) (o : Outputs s.cfg), step s = .next ⟨s.cfg, b'⟩ ∧
    b'.outs = o :: s.br.outs ∧ o.iStb = s.br.rdPending ∧ o.coeffWe = 0 ∧ o.stateWe = false ∧ o.wrCfg = false ∧
    b'.rdPending = false ∧ b'.inputs = [] ∧ SameCapture s.br b' ∧ SameCtrl s.br b' ∧
    (∀ x, (∀ a, EngineWrite.coeff a ∈ s.br.idleEngine → a % 2 ^ s.cfg.caw ≠ x.toNat) →
      b'.coeffWord x = s.br.coeffWord x) ∧
    (∀ x, (∀ a, EngineWrite.state a ∈ s.br.idleEngine → a % 2 ^ s.cfg.saw ≠ x.toNat) →
      b'.stateWord x = s.br.stateWord x)

/-! ## The configuration domain -/

/-- R34: outside reset `config` changes only at an update point, and then to the bit of a WRCFG: of this cycle's, or else of
the one that waits in the hand-off buffer (D12, log entry 8). -/
def Obligations.ConfigChangesOnlyAtUpdatePoint : Prop :=
  ∀ s : State, s.br.currentIn.rst = false → ∃ b' : Bridge s.cfg, step s = .next ⟨s.cfg, b'⟩ ∧
    (b'.config ≠ s.br.config → s.br.currentIn.cfgTick = true ∧
      ((s.br.currentIn.wrCfg = true ∧ b'.config = configBit s.cfg s.br.currentIn.smb.data) ∨
        (s.br.currentIn.wrCfg = false ∧ s.br.cfgPendValid = true ∧ b'.config = s.br.cfgPendBit)))

/-- Decision D12 (R185, R187, log entry 8): a config write in a cycle that ends with an update point is taken directly and
empties the hand-off buffer, so with an update point in every cycle the register has one cycle of latency. -/
def Obligations.CoincidentConfigWriteTakenDirectly : Prop :=
  ∀ s : State, s.br.currentIn.rst = false → s.br.currentIn.cfgTick = true → ∃ b' : Bridge s.cfg,
    step s = .next ⟨s.cfg, b'⟩ ∧ b'.cfgPendValid = false ∧
    (s.br.currentIn.wrCfg = true → b'.config = configBit s.cfg s.br.currentIn.smb.data) ∧
    (s.br.currentIn.wrCfg = false → s.br.cfgPendValid = false → b'.config = s.br.config)

/-- Decision D12 (R9, R83, R184, R185, R187, log entry 8): a config write in a cycle without an update point waits in the hand-off
buffer, however many cycles without update point or config write follow, `config` still holding its old value, and lands at the
next update point; one in a cycle with an update point lands there. From every state the schedule ahead has infinitely many update
points, and the steps take theirs from it; so a config write that none follows lands after some number of steps, when no reset
strikes. -/
def Obligations.ConfigWriteLandsAtUpdatePoint : Prop :=
  (∀ (s : State) (W T : CycleIn s.cfg) (mid rest : List (CycleIn s.cfg)),
    s.br.inputs = W :: (mid ++ T :: rest) → W.rst = false → (∀ i ∈ mid, i.rst = false) → T.rst = false →
    W.wrCfg = true → W.cfgTick = false → (∀ i ∈ mid, i.wrCfg = false ∧ i.cfgTick = false) → T.wrCfg = false →
    T.cfgTick = true →
    ∃ b b' : Bridge s.cfg, Reaches (mid.length + 1) s ⟨s.cfg, b⟩ ∧ b.config = s.br.config ∧ b.cfgPendValid = true ∧
      Reaches (mid.length + 2) s ⟨s.cfg, b'⟩ ∧ b'.config = configBit s.cfg W.smb.data ∧ b'.cfgPendValid = false) ∧
  (∀ (s : State) (W : CycleIn s.cfg) (rest : List (CycleIn s.cfg)),
    s.br.inputs = W :: rest → W.rst = false → W.wrCfg = true → W.cfgTick = true →
    ∃ b' : Bridge s.cfg, Reaches 1 s ⟨s.cfg, b'⟩ ∧ b'.config = configBit s.cfg W.smb.data ∧ b'.cfgPendValid = false) ∧
  (∀ (c : Config) (b : Bridge c), Admissible b.schedule) ∧
  (∀ (k : Nat) (s t : State), Reaches k s t → t.br.currentIn.cfgTick = s.br.schedule k) ∧
  (∀ (s : State) (W : CycleIn s.cfg) (rest : List (CycleIn s.cfg)),
    s.br.inputs = W :: rest → W.rst = false → W.wrCfg = true → (∀ i ∈ rest, i.rst = false ∧ i.wrCfg = false) →
    ∃ (k : Nat) (b' : Bridge s.cfg), Reaches (k + 1) s ⟨s.cfg, b'⟩ ∧ b'.config = configBit s.cfg W.smb.data ∧
      b'.cfgPendValid = false)

/-- Decision D12 (R186, log entry 8): of any sequence of cycles without an update point, only the last config write before the
next update point counts: `config` takes the bit of the last one, or the bit that waited before them, or keeps its value. -/
def Obligations.LastConfigWriteWins : Prop :=
  ∀ (s : State) (T : CycleIn s.cfg) (mid rest : List (CycleIn s.cfg)),
    s.br.inputs = mid ++ T :: rest → (∀ i ∈ mid, i.rst = false ∧ i.cfgTick = false) → T.rst = false → T.cfgTick = true →
    let p := (mid ++ [T]).foldl handOffAfter (s.br.cfgPendValid, s.br.cfgPendBit)
    ∃ b' : Bridge s.cfg, Reaches (mid.length + 1) s ⟨s.cfg, b'⟩ ∧
      b'.config = (if p.1 then p.2 else s.br.config) ∧ b'.cfgPendValid = false ∧ b'.cfgPendBit = p.2

/-! ## The channel control registers -/

/-- R202: the strobe output of a channel is its write-strobe of the same cycle, beside the fields of the word held before. That the
strobe output follows while reset is asserted too, where R262 says that no request has any effect, is the model's choice (log entry
9). -/
def Obligations.ControlStrobeInRequestCycle : Prop :=
  ∀ (c : Config) (b : Bridge c) (i : CycleIn c) (k : Nat) (hk : k < c.nCh),
    (b.outputs i).channels[k].stb = i.ccr[k].stb ∧
    (b.outputs i).channels[k].profile = ctrlProfile c b.ctrlWord[k] ∧
    (b.outputs i).channels[k].enIir = ctrlEnIir c b.ctrlWord[k] ∧
    (b.outputs i).channels[k].enOut = ctrlEnOut c b.ctrlWord[k]

/-- R200, R203, R219: in one cycle every channel with a strobe loads the whole of its data, and every other keeps its word,
whatever the memory bus does. -/
def Obligations.ControlWordsLoad : Prop :=
  ∀ s : State, s.br.currentIn.rst = false → ∃ b' : Bridge s.cfg, step s = .next ⟨s.cfg, b'⟩ ∧
    ∀ (k : Nat) (hk : k < s.cfg.nCh), b'.ctrlWord[k] =
      if s.br.currentIn.ccr[k].stb then s.br.currentIn.ccr[k].data else s.br.ctrlWord[k]

/-- R203: in a cycle in which a channel has no strobe, whatever its data lines hold, its strobe output is 0, its word keeps
its value, and its field outputs stay as they are in the next cycle. -/
def Obligations.IdleChannelKeepsItsWord : Prop :=
  ∀ s : State, s.br.currentIn.rst = false → ∃ b' : Bridge s.cfg, step s = .next ⟨s.cfg, b'⟩ ∧
    ∀ (k : Nat) (hk : k < s.cfg.nCh), s.br.currentIn.ccr[k].stb = false →
      (s.br.outputs s.br.currentIn).channels[k].stb = false ∧ b'.ctrlWord[k] = s.br.ctrlWord[k] ∧
      ∀ i, (b'.outputs i).channels[k].profile = (s.br.outputs s.br.currentIn).channels[k].profile ∧
        (b'.outputs i).channels[k].enIir = (s.br.outputs s.br.currentIn).channels[k].enIir ∧
        (b'.outputs i).channels[k].enOut = (s.br.outputs s.br.currentIn).channels[k].enOut

/-- R204: no control word and no control request affects the memory bus: two states that differ only in them give equal
registers and memories of the memory bus, and equal responses. -/
def Obligations.ControlDoesNotAffectMemoryBus : Prop :=
  ∀ (c : Config) (b b' : Bridge c) (i i' : CycleIn c), SameMemoryBus b b' → b.currentIn = i → b'.currentIn = i' →
    i'.smb = i.smb → i'.done = i.done → i'.cfgTick = i.cfgTick → i'.rst = i.rst → i'.engine = i.engine →
    ∃ u u' : Bridge c, step ⟨c, b⟩ = .next ⟨c, u⟩ ∧ step ⟨c, b'⟩ = .next ⟨c, u'⟩ ∧ SameMemoryBus u u' ∧
      (b'.outputs i').iStb = (b.outputs i).iStb ∧ (b'.outputs i').iData = (b.outputs i).iData

/-! ## The engine -/

/-- R86, R244: an engine write changes no register and no word but those it names; a word it names holds a free value, of
which nothing is said (log entry 11). -/
def Obligations.EngineWritesOnlyWhatItNames : Prop :=
  ∀ (c : Config) (b : Bridge c) (ws : List EngineWrite),
    let b' := b.engineWrites ws
    b'.rdPending = b.rdPending ∧ SameCapture b b' ∧ SameConfig b b' ∧ SameCtrl b b' ∧ SameRecord b b' ∧
    (∀ x, (∀ a, EngineWrite.coeff a ∈ ws → a % 2 ^ c.caw ≠ x.toNat) → b'.coeffWord x = b.coeffWord x) ∧
    (∀ x, (∀ a, EngineWrite.state a ∈ ws → a % 2 ^ c.saw ≠ x.toNat) → b'.stateWord x = b.stateWord x)
end

