-- ==== Sys2Proof/Laws/Config.lean ====
section
/-! SUPPORT. What the static assertions of a legal configuration say, one fact per assertion. -/

namespace Sys2Proof

theorem Assertion.unless_eq_nil {a : Assertion} {ok : Bool} : a.unless ok = [] ↔ ok = true := by
  cases ok <;> simp [Assertion.unless]

/-- A parameter set violates nothing exactly when it meets every condition of R231 to R235, D3, D4 and D6. -/
theorem Params.violations_eq_nil (p : Params) : p.violations = [] ↔
    p.wCoeff ≤ p.wState ∧ p.wStore = 2 * p.wCoeff ∧ p.wWord ≤ p.wCoeff ∧ p.aw = 3 + p.lowW ∧ 2 ≤ p.wCoeff ∧
      1 ≤ p.wWord ∧ p.StatusBitsFit ∧ p.cfgDataBit < p.wCoeff ∧ p.ControlFieldsFit := by
  simp only [Params.violations, List.append_eq_nil_iff, Assertion.unless_eq_nil, decide_eq_true_eq, and_assoc]

variable (c : Config)

theorem Config.wCoeff_le_wState : c.wCoeff ≤ c.wState := ((Params.violations_eq_nil _).1 c.legal).1
theorem Config.wStore_eq : c.wStore = 2 * c.wCoeff := ((Params.violations_eq_nil _).1 c.legal).2.1
theorem Config.wWord_le_wCoeff : c.wWord ≤ c.wCoeff := ((Params.violations_eq_nil _).1 c.legal).2.2.1
theorem Config.aw_eq : c.aw = 3 + c.lowW := ((Params.violations_eq_nil _).1 c.legal).2.2.2.1
theorem Config.two_le_wCoeff : 2 ≤ c.wCoeff := ((Params.violations_eq_nil _).1 c.legal).2.2.2.2.1
theorem Config.one_le_wWord : 1 ≤ c.wWord := ((Params.violations_eq_nil _).1 c.legal).2.2.2.2.2.1
theorem Config.statusBitsFit : c.StatusBitsFit := ((Params.violations_eq_nil _).1 c.legal).2.2.2.2.2.2.1
theorem Config.cfgDataBit_lt : c.cfgDataBit < c.wCoeff := ((Params.violations_eq_nil _).1 c.legal).2.2.2.2.2.2.2.1
theorem Config.controlFieldsFit : c.ControlFieldsFit := ((Params.violations_eq_nil _).1 c.legal).2.2.2.2.2.2.2.2

theorem Config.wCoeff_add_wHidden : c.wCoeff + c.wHidden = c.wState := by
  have := c.wCoeff_le_wState
  unfold Params.wHidden; omega

/-- The storage word of the model, two halves side by side, has the width the engine's memory has (R232). -/
theorem Config.halves_eq_wStore : c.wCoeff + c.wCoeff = c.wStore := by
  have := c.wStore_eq; omega

theorem Config.caw_le_lowW : c.caw ≤ c.lowW := le_max_left _ _
theorem Config.saw_le_lowW : c.saw ≤ c.lowW := le_max_right _ _

end Sys2Proof
end

