-- ==== Sys2Proof/Laws/Memory.lean ====
section
/-! SUPPORT. The laws of a memory of words: a read gives what the last write to the same address put there, every
operation keeps the canonical form, and equal contents are equal data. -/

namespace Sys2Proof.Machine

variable {w : Nat}

theorem Memory.read_erase (m : Memory w) (a x : Nat) :
    (m.erase a).read x = if x = a then 0 else m.read x := by
  induction m with
  | nil => simp [Memory.erase, Memory.read]
  | cons cell m ih =>
    obtain ⟨k, v⟩ := cell
    simp only [Memory.erase] at ih ⊢
    rw [List.filter_cons]
    by_cases hk : k = a
    · subst hk
      simp only [bne_self_eq_false, Bool.false_eq_true, if_false, ih, Memory.read]
      split_ifs <;> simp_all
    · simp only [bne_iff_ne, ne_eq, hk, not_false_eq_true, if_true, Memory.read, ih]
      split_ifs <;> simp_all

theorem Memory.read_insert (m : Memory w) (a x : Nat) (v : Word w) (h : ∀ cell ∈ m, cell.1 ≠ a) :
    (Memory.insert a v m).read x = if x = a then v else m.read x := by
  induction m with
  | nil => simp [Memory.insert, Memory.read, eq_comm]
  | cons cell m ih =>
    obtain ⟨k, u⟩ := cell
    have hk : k ≠ a := h _ (List.mem_cons_self ..)
    have ih := ih fun cell hc => h cell (List.mem_cons_of_mem _ hc)
    simp only [Memory.insert]
    by_cases hlt : a < k
    · rw [if_pos hlt]
      by_cases hx : x = a
      · subst hx; simp [Memory.read]
      · simp [Memory.read, hx, Ne.symm hx]
    · rw [if_neg hlt]
      by_cases hkx : k = x
      · subst hkx; simp [Memory.read, hk]
      · simp only [Memory.read, if_neg hkx, ih]

theorem Memory.ne_of_mem_erase {m : Memory w} {a : Nat} : ∀ cell ∈ m.erase a, cell.1 ≠ a := by
  intro cell hc
  simpa using (List.mem_filter.1 hc).2

/-- What a write can do to a read: the address written reads as the word written, every other as before. It holds of
every list, canonical or not. -/
theorem Memory.read_write (m : Memory w) (a x : Nat) (v : Word w) :
    (m.write a v).read x = if x = a then v else m.read x := by
  unfold Memory.write
  split_ifs with h0 hx hx
  · subst hx; simp [Memory.read_erase, h0]
  · simp [Memory.read_erase, hx]
  · rw [Memory.read_insert _ _ _ _ Memory.ne_of_mem_erase]; simp [hx]
  · rw [Memory.read_insert _ _ _ _ Memory.ne_of_mem_erase]; simp [hx, Memory.read_erase]

theorem Memory.mem_insert {m : Memory w} {a : Nat} {v : Word w} {cell : Nat × Word w} :
    cell ∈ Memory.insert a v m ↔ cell = (a, v) ∨ cell ∈ m := by
  induction m with
  | nil => simp [Memory.insert]
  | cons head m ih =>
    obtain ⟨k, u⟩ := head
    simp only [Memory.insert]
    split_ifs
    · simp
    · simp only [List.mem_cons, ih]; tauto

theorem Memory.insert_rising {m : Memory w} {a : Nat} {v : Word w} (hm : m.Pairwise fun x y => x.1 < y.1)
    (h : ∀ cell ∈ m, cell.1 ≠ a) : (Memory.insert a v m).Pairwise fun x y => x.1 < y.1 := by
  induction m with
  | nil => simp [Memory.insert]
  | cons head m ih =>
    obtain ⟨k, u⟩ := head
    have hk : k ≠ a := h _ (List.mem_cons_self ..)
    rw [List.pairwise_cons] at hm
    simp only [Memory.insert]
    split_ifs with hlt
    · refine List.pairwise_cons.2 ⟨?_, List.pairwise_cons.2 hm⟩
      intro cell hc
      rcases List.mem_cons.1 hc with rfl | hc
      · exact hlt
      · exact lt_trans hlt (hm.1 cell hc)
    · refine List.pairwise_cons.2 ⟨?_, ih hm.2 fun cell hc => h cell (List.mem_cons_of_mem _ hc)⟩
      intro cell hc
      rcases Memory.mem_insert.1 hc with rfl | hc
      · show k < a
        omega
      · exact hm.1 cell hc

/-- A write below the depth keeps the canonical form. -/
theorem Memory.write_wf {depth : Nat} {m : Memory w} (hm : m.wf depth) {a : Nat} (ha : a < depth) (v : Word w) :
    (m.write a v).wf depth := by
  have hrise : (m.erase a).Pairwise fun x y => x.1 < y.1 := hm.1.filter _
  have hcell : ∀ cell ∈ m.erase a, cell.1 < depth ∧ cell.2 ≠ 0 := fun cell hc =>
    hm.2 cell (List.mem_filter.1 hc).1
  unfold Memory.write
  split_ifs with h0
  · exact ⟨hrise, hcell⟩
  · refine ⟨Memory.insert_rising hrise Memory.ne_of_mem_erase, fun cell hc => ?_⟩
    rcases Memory.mem_insert.1 hc with rfl | hc
    · exact ⟨ha, h0⟩
    · exact hcell cell hc

theorem Memory.nil_wf (depth : Nat) : Memory.wf (w := w) depth [] := ⟨List.Pairwise.nil, by simp⟩

/-- Writing a list of pairs leaves every address that none of them names. -/
theorem Memory.read_foldl_write (aw : Nat) (cells : List (Nat × Nat)) (m : Memory w) (x : Nat)
    (h : ∀ q ∈ cells, q.1 % 2 ^ aw ≠ x) :
    (cells.foldl (fun m cell => m.write (cell.1 % 2 ^ aw) (BitVec.ofNat w cell.2)) m).read x = m.read x := by
  induction cells generalizing m with
  | nil => rfl
  | cons q cells ih =>
    rw [List.foldl_cons, ih _ fun q hq => h q (by simp [hq]), Memory.read_write, if_neg (h q (by simp)).symm]

/-- An address that no pair of the list names reads 0. -/
theorem Memory.read_ofCells_unlisted (aw : Nat) (cells : List (Nat × Nat)) (x : Nat) (h : ∀ q ∈ cells, q.1 % 2 ^ aw ≠ x) :
    (Memory.ofCells aw w cells).read x = 0 := Memory.read_foldl_write aw cells [] x h

/-- An address reads the word of the last pair of the list that names it. -/
theorem Memory.read_ofCells_listed (aw : Nat) (before after : List (Nat × Nat)) (a v : Nat)
    (h : ∀ q ∈ after, q.1 % 2 ^ aw ≠ a % 2 ^ aw) :
    (Memory.ofCells aw w (before ++ (a, v) :: after)).read (a % 2 ^ aw) = BitVec.ofNat w v := by
  rw [Memory.ofCells, List.foldl_append, List.foldl_cons, Memory.read_foldl_write aw after _ _ h, Memory.read_write, if_pos rfl]

/-- Initial contents given as a list of cells are in canonical form. -/
theorem Memory.ofCells_wf (aw : Nat) (cells : List (Nat × Nat)) : (Memory.ofCells aw w cells).wf (2 ^ aw) := by
  have key : ∀ (l : List (Nat × Nat)) (m : Memory w), m.wf (2 ^ aw) →
      (l.foldl (fun m cell => m.write (cell.1 % 2 ^ aw) (BitVec.ofNat w cell.2)) m).wf (2 ^ aw) := by
    intro l
    induction l with
    | nil => exact fun m hm => hm
    | cons cell l ih =>
      exact fun m hm => ih _ (Memory.write_wf hm (Nat.mod_lt _ (by positivity)) _)
  exact key cells [] (Memory.nil_wf _)

/-- An address below every listed one reads as 0. -/
theorem Memory.read_of_lt {m : Memory w} {a : Nat} (h : ∀ cell ∈ m, a < cell.1) : m.read a = 0 := by
  induction m with
  | nil => rfl
  | cons cell m ih =>
    obtain ⟨k, v⟩ := cell
    have hk : a < k := h _ (List.mem_cons_self ..)
    simp only [Memory.read, if_neg (Nat.ne_of_gt hk)]
    exact ih fun cell hc => h cell (List.mem_cons_of_mem _ hc)

end Sys2Proof.Machine
end

