-- ==== Sys2Proof/Laws/Operands.lean ====
section
/-! SUPPORT. What each data transformation of R222 does, bit field by bit field. -/

namespace Sys2Proof.Machine

variable {w : Nat}

theorem lowHalf_append (hi lo : Word w) : lowHalf (hi ++ lo) = lo := by
  apply BitVec.eq_of_getLsbD_eq
  intro i hi'
  simp [lowHalf, BitVec.getLsbD_append, hi']

theorem highHalf_append (hi lo : Word w) : highHalf (hi ++ lo) = hi := by
  apply BitVec.eq_of_getLsbD_eq
  intro i hi'
  simp only [highHalf, BitVec.getLsbD_extractLsb', BitVec.getLsbD_append]
  simp [hi']

/-- A coefficient word is `{high, low}` (R61). -/
theorem highHalf_append_lowHalf (v : Word (w + w)) : highHalf v ++ lowHalf v = v := by
  apply BitVec.eq_of_getLsbD_eq
  intro i hi
  simp only [lowHalf, highHalf, BitVec.getLsbD_append, BitVec.getLsbD_extractLsb']
  by_cases h : i < w
  · simp [h]
  · have h1 : i - w < w := by omega
    have h2 : w + (i - w) = i := by omega
    simp [h, h1, h2]

theorem lowHalf_replicateData (d : Word w) : lowHalf (replicateData d) = d := lowHalf_append d d

theorem highHalf_replicateData (d : Word w) : highHalf (replicateData d) = d := highHalf_append d d

theorem lowHalf_mergeHalves (old new : Word (w + w)) (en : Word 2) :
    lowHalf (mergeHalves old new en) = if en.getLsbD 0 then lowHalf new else lowHalf old := lowHalf_append _ _

theorem highHalf_mergeHalves (old new : Word (w + w)) (en : Word 2) :
    highHalf (mergeHalves old new en) = if en.getLsbD 1 then highHalf new else highHalf old := highHalf_append _ _

variable (c : Config)

theorem exposedPart_placeTop (d : Word c.wCoeff) (h : Word c.wHidden) : exposedPart c (placeTop c d h) = d := by
  have := c.wCoeff_add_wHidden
  apply BitVec.eq_of_getLsbD_eq
  intro i hi
  have h1 : c.wHidden + i < c.wState := by omega
  simp [exposedPart, placeTop, BitVec.getLsbD_append, hi, h1]

theorem hiddenPart_placeTop (d : Word c.wCoeff) (h : Word c.wHidden) : hiddenPart c (placeTop c d h) = h := by
  have := c.wCoeff_add_wHidden
  apply BitVec.eq_of_getLsbD_eq
  intro i hi
  have h1 : i < c.wState := by omega
  simp [hiddenPart, placeTop, BitVec.getLsbD_append, hi, h1]

/-- A state word is its exposed part above its hidden part (R63). -/
theorem placeTop_parts (s : Word c.wState) : placeTop c (exposedPart c s) (hiddenPart c s) = s := by
  have := c.wCoeff_add_wHidden
  apply BitVec.eq_of_getLsbD_eq
  intro i hi
  simp only [exposedPart, hiddenPart, placeTop, BitVec.getLsbD_setWidth, hi, decide_true, Bool.true_and,
    BitVec.getLsbD_append, BitVec.getLsbD_extractLsb']
  by_cases h : i < c.wHidden
  · simp [h]
  · have h1 : i - c.wHidden < c.wCoeff := by omega
    have h2 : c.wHidden + (i - c.wHidden) = i := by omega
    simp [h, h1, h2]

theorem getLsbD_shiftedBit {n : Nat} (b : Bool) (k i : Nat) (hk : k < n) :
    (zext n (BitVec.ofBool b) <<< k).getLsbD i = (b && decide (i = k)) := by
  simp only [BitVec.getLsbD_shiftLeft, BitVec.getLsbD_setWidth]
  by_cases h : i = k
  · subst h; cases b <;> simp [hk]; omega
  · have : i < k ∨ 1 ≤ i - k := by omega
    rcases this with h1 | h1
    · simp [h1, h]
    · rw [BitVec.getLsbD_of_ge _ _ h1]; simp [h]

theorem configBit_configData (b : Bool) : configBit c (configData c b) = b := by
  simp [configBit, configData, getLsbD_shiftedBit _ _ _ c.cfgDataBit_lt]

theorem getLsbD_packCtrl (profile : Nat) (enIir enOut : Bool) (i : Nat) (hi : i < c.wCtrl) :
    (packCtrl c profile enIir enOut).getLsbD i =
      ((decide (c.ctrlProfileLsb ≤ i) && (BitVec.ofNat c.wProfile profile).getLsbD (i - c.ctrlProfileLsb)) ||
        (enIir && decide (i = c.ctrlEnIirBit)) || (enOut && decide (i = c.ctrlEnOutBit))) := by
  have hf := c.controlFieldsFit
  have h1 : i - c.ctrlProfileLsb < c.wCtrl := by omega
  rw [packCtrl, BitVec.getLsbD_or, BitVec.getLsbD_or, getLsbD_shiftedBit _ _ _ hf.2.1,
    getLsbD_shiftedBit _ _ _ hf.2.2.1, BitVec.getLsbD_shiftLeft]
  by_cases h : c.ctrlProfileLsb ≤ i
  · simp [h, hi, h1, Nat.not_lt.2 h]
  · simp [h, hi, Nat.lt_of_not_le h]

theorem ctrlEnOut_packCtrl (profile : Nat) (enIir enOut : Bool) :
    ctrlEnOut c (packCtrl c profile enIir enOut) = enOut := by
  have hf := c.controlFieldsFit
  rw [ctrlEnOut, getLsbD_packCtrl _ _ _ _ _ hf.2.1]
  have h1 : decide (c.ctrlProfileLsb ≤ c.ctrlEnOutBit) = false ∨ c.wProfile ≤ c.ctrlEnOutBit - c.ctrlProfileLsb := by
    rcases hf.2.2.2.2.1 with h | h
    · exact .inl (by simpa using h)
    · exact .inr (by omega)
  rcases h1 with h1 | h1
  · simp [h1, hf.1]
  · rw [BitVec.getLsbD_of_ge _ _ h1]; simp [hf.1]

theorem ctrlEnIir_packCtrl (profile : Nat) (enIir enOut : Bool) :
    ctrlEnIir c (packCtrl c profile enIir enOut) = enIir := by
  have hf := c.controlFieldsFit
  rw [ctrlEnIir, getLsbD_packCtrl _ _ _ _ _ hf.2.2.1]
  have h1 : decide (c.ctrlProfileLsb ≤ c.ctrlEnIirBit) = false ∨ c.wProfile ≤ c.ctrlEnIirBit - c.ctrlProfileLsb := by
    rcases hf.2.2.2.2.2 with h | h
    · exact .inl (by simpa using h)
    · exact .inr (by omega)
  rcases h1 with h1 | h1
  · simp [h1, Ne.symm hf.1]
  · rw [BitVec.getLsbD_of_ge _ _ h1]; simp [Ne.symm hf.1]

theorem ctrlProfile_packCtrl (profile : Nat) (enIir enOut : Bool) :
    ctrlProfile c (packCtrl c profile enIir enOut) = BitVec.ofNat c.wProfile profile := by
  have hf := c.controlFieldsFit
  apply BitVec.eq_of_getLsbD_eq
  intro i hi
  rw [ctrlProfile, BitVec.getLsbD_extractLsb', getLsbD_packCtrl _ _ _ _ _ (by omega)]
  have h1 : c.ctrlProfileLsb + i ≠ c.ctrlEnIirBit := by omega
  have h2 : c.ctrlProfileLsb + i ≠ c.ctrlEnOutBit := by omega
  simp [hi, h1, h2]

/-- The three fields make up the whole control word: packing what was extracted gives it back (R115). -/
theorem packCtrl_fields (v : Word c.wCtrl) :
    packCtrl c (ctrlProfile c v).toNat (ctrlEnIir c v) (ctrlEnOut c v) = v := by
  have hf := c.controlFieldsFit
  have hw : c.wCtrl = c.wProfile + 2 := rfl
  apply BitVec.eq_of_getLsbD_eq
  intro i hi
  rw [getLsbD_packCtrl _ _ _ _ _ hi]
  simp only [BitVec.ofNat_toNat, BitVec.setWidth_eq, ctrlProfile, ctrlEnIir, ctrlEnOut, BitVec.getLsbD_extractLsb']
  by_cases h1 : i = c.ctrlEnIirBit
  · subst h1
    have : ¬ (c.ctrlProfileLsb ≤ c.ctrlEnIirBit ∧ c.ctrlEnIirBit - c.ctrlProfileLsb < c.wProfile) := by omega
    by_cases h : c.ctrlProfileLsb ≤ c.ctrlEnIirBit
    · have h3 : ¬ c.ctrlEnIirBit - c.ctrlProfileLsb < c.wProfile := fun h' => this ⟨h, h'⟩
      simp [h3, Ne.symm hf.1]
    · simp [h, Ne.symm hf.1]
  · by_cases h2 : i = c.ctrlEnOutBit
    · subst h2
      have : ¬ (c.ctrlProfileLsb ≤ c.ctrlEnOutBit ∧ c.ctrlEnOutBit - c.ctrlProfileLsb < c.wProfile) := by omega
      by_cases h : c.ctrlProfileLsb ≤ c.ctrlEnOutBit
      · have h3 : ¬ c.ctrlEnOutBit - c.ctrlProfileLsb < c.wProfile := fun h' => this ⟨h, h'⟩
        simp [h3, hf.1]
      · simp [h, hf.1]
    · have h3 : c.ctrlProfileLsb ≤ i := by omega
      have h4 : i - c.ctrlProfileLsb < c.wProfile := by omega
      have h5 : c.ctrlProfileLsb + (i - c.ctrlProfileLsb) = i := by omega
      simp [h1, h2, h3, h4, h5]

theorem getLsbD_statusResponse (done start : Bool) (i : Nat) :
    (statusResponse c done start).getLsbD i =
      ((start && decide (i = c.statusStartBit)) || (done && decide (i = c.statusDoneBit))) := by
  have hf := c.statusBitsFit
  rw [statusResponse, BitVec.getLsbD_or, getLsbD_shiftedBit _ _ _ hf.2.1, getLsbD_shiftedBit _ _ _ hf.2.2]

end Sys2Proof.Machine
end

