-- ==== Sys2Proof/Laws/State.lean ====
section
/-! SUPPORT. One lemma per field of the bridge per update of it, so that no later proof unfolds a record update. -/

namespace Sys2Proof.Machine

variable {c : Config} (b : Bridge c)

/-! `Bridge.clearPending` -/

@[simp] theorem Bridge.clearPending_rdPending :
    b.clearPending.rdPending = false := rfl
@[simp] theorem Bridge.clearPending_rdStateSel :
    b.clearPending.rdStateSel = b.rdStateSel := rfl
@[simp] theorem Bridge.clearPending_rdSel3 :
    b.clearPending.rdSel3 = b.rdSel3 := rfl
@[simp] theorem Bridge.clearPending_rdContended :
    b.clearPending.rdContended = b.rdContended := rfl
@[simp] theorem Bridge.clearPending_rdAdr :
    b.clearPending.rdAdr = b.rdAdr := rfl
@[simp] theorem Bridge.clearPending_config :
    b.clearPending.config = b.config := rfl
@[simp] theorem Bridge.clearPending_cfgPendValid :
    b.clearPending.cfgPendValid = b.cfgPendValid := rfl
@[simp] theorem Bridge.clearPending_cfgPendBit :
    b.clearPending.cfgPendBit = b.cfgPendBit := rfl
@[simp] theorem Bridge.clearPending_ctrlWord :
    b.clearPending.ctrlWord = b.ctrlWord := rfl
@[simp] theorem Bridge.clearPending_coeffMem :
    b.clearPending.coeffMem = b.coeffMem := rfl
@[simp] theorem Bridge.clearPending_stateMem :
    b.clearPending.stateMem = b.stateMem := rfl
@[simp] theorem Bridge.clearPending_inputs :
    b.clearPending.inputs = b.inputs := rfl
@[simp] theorem Bridge.clearPending_time :
    b.clearPending.time = b.time := rfl
@[simp] theorem Bridge.clearPending_idleEngine :
    b.clearPending.idleEngine = b.idleEngine := rfl
@[simp] theorem Bridge.clearPending_outs :
    b.clearPending.outs = b.outs := rfl
@[simp] theorem Bridge.clearPending_draws :
    b.clearPending.draws = b.draws := rfl

@[simp] theorem Bridge.clearPending_coeffWord (a : Word c.caw) :
    b.clearPending.coeffWord a = b.coeffWord a := rfl
@[simp] theorem Bridge.clearPending_stateWord (a : Word c.saw) :
    b.clearPending.stateWord a = b.stateWord a := rfl

/-! `Bridge.captureRead` -/

@[simp] theorem Bridge.captureRead_rdPending (ss s3 : Bool) (low : Word c.lowW) :
    (b.captureRead ss s3 low).rdPending = true := rfl
@[simp] theorem Bridge.captureRead_rdStateSel (ss s3 : Bool) (low : Word c.lowW) :
    (b.captureRead ss s3 low).rdStateSel = ss := rfl
@[simp] theorem Bridge.captureRead_rdSel3 (ss s3 : Bool) (low : Word c.lowW) :
    (b.captureRead ss s3 low).rdSel3 = s3 := rfl
@[simp] theorem Bridge.captureRead_rdContended (ss s3 : Bool) (low : Word c.lowW) :
    (b.captureRead ss s3 low).rdContended = false := rfl
@[simp] theorem Bridge.captureRead_rdAdr (ss s3 : Bool) (low : Word c.lowW) :
    (b.captureRead ss s3 low).rdAdr = low := rfl
@[simp] theorem Bridge.captureRead_config (ss s3 : Bool) (low : Word c.lowW) :
    (b.captureRead ss s3 low).config = b.config := rfl
@[simp] theorem Bridge.captureRead_cfgPendValid (ss s3 : Bool) (low : Word c.lowW) :
    (b.captureRead ss s3 low).cfgPendValid = b.cfgPendValid := rfl
@[simp] theorem Bridge.captureRead_cfgPendBit (ss s3 : Bool) (low : Word c.lowW) :
    (b.captureRead ss s3 low).cfgPendBit = b.cfgPendBit := rfl
@[simp] theorem Bridge.captureRead_ctrlWord (ss s3 : Bool) (low : Word c.lowW) :
    (b.captureRead ss s3 low).ctrlWord = b.ctrlWord := rfl
@[simp] theorem Bridge.captureRead_coeffMem (ss s3 : Bool) (low : Word c.lowW) :
    (b.captureRead ss s3 low).coeffMem = b.coeffMem := rfl
@[simp] theorem Bridge.captureRead_stateMem (ss s3 : Bool) (low : Word c.lowW) :
    (b.captureRead ss s3 low).stateMem = b.stateMem := rfl
@[simp] theorem Bridge.captureRead_inputs (ss s3 : Bool) (low : Word c.lowW) :
    (b.captureRead ss s3 low).inputs = b.inputs := rfl
@[simp] theorem Bridge.captureRead_time (ss s3 : Bool) (low : Word c.lowW) :
    (b.captureRead ss s3 low).time = b.time := rfl
@[simp] theorem Bridge.captureRead_idleEngine (ss s3 : Bool) (low : Word c.lowW) :
    (b.captureRead ss s3 low).idleEngine = b.idleEngine := rfl
@[simp] theorem Bridge.captureRead_outs (ss s3 : Bool) (low : Word c.lowW) :
    (b.captureRead ss s3 low).outs = b.outs := rfl
@[simp] theorem Bridge.captureRead_draws (ss s3 : Bool) (low : Word c.lowW) :
    (b.captureRead ss s3 low).draws = b.draws := rfl

@[simp] theorem Bridge.captureRead_coeffWord (ss s3 : Bool) (low : Word c.lowW) (a : Word c.caw) :
    (b.captureRead ss s3 low).coeffWord a = b.coeffWord a := rfl
@[simp] theorem Bridge.captureRead_stateWord (ss s3 : Bool) (low : Word c.lowW) (a : Word c.saw) :
    (b.captureRead ss s3 low).stateWord a = b.stateWord a := rfl

/-! `Bridge.coeffWrite` -/

@[simp] theorem Bridge.coeffWrite_rdPending (a : Word c.caw) (v : Word (c.wCoeff + c.wCoeff)) (en : Word 2) :
    (b.coeffWrite a v en).rdPending = b.rdPending := rfl
@[simp] theorem Bridge.coeffWrite_rdStateSel (a : Word c.caw) (v : Word (c.wCoeff + c.wCoeff)) (en : Word 2) :
    (b.coeffWrite a v en).rdStateSel = b.rdStateSel := rfl
@[simp] theorem Bridge.coeffWrite_rdSel3 (a : Word c.caw) (v : Word (c.wCoeff + c.wCoeff)) (en : Word 2) :
    (b.coeffWrite a v en).rdSel3 = b.rdSel3 := rfl
@[simp] theorem Bridge.coeffWrite_rdContended (a : Word c.caw) (v : Word (c.wCoeff + c.wCoeff)) (en : Word 2) :
    (b.coeffWrite a v en).rdContended = b.rdContended := rfl
@[simp] theorem Bridge.coeffWrite_rdAdr (a : Word c.caw) (v : Word (c.wCoeff + c.wCoeff)) (en : Word 2) :
    (b.coeffWrite a v en).rdAdr = b.rdAdr := rfl
@[simp] theorem Bridge.coeffWrite_config (a : Word c.caw) (v : Word (c.wCoeff + c.wCoeff)) (en : Word 2) :
    (b.coeffWrite a v en).config = b.config := rfl
@[simp] theorem Bridge.coeffWrite_cfgPendValid (a : Word c.caw) (v : Word (c.wCoeff + c.wCoeff)) (en : Word 2) :
    (b.coeffWrite a v en).cfgPendValid = b.cfgPendValid := rfl
@[simp] theorem Bridge.coeffWrite_cfgPendBit (a : Word c.caw) (v : Word (c.wCoeff + c.wCoeff)) (en : Word 2) :
    (b.coeffWrite a v en).cfgPendBit = b.cfgPendBit := rfl
@[simp] theorem Bridge.coeffWrite_ctrlWord (a : Word c.caw) (v : Word (c.wCoeff + c.wCoeff)) (en : Word 2) :
    (b.coeffWrite a v en).ctrlWord = b.ctrlWord := rfl
@[simp] theorem Bridge.coeffWrite_coeffMem (a : Word c.caw) (v : Word (c.wCoeff + c.wCoeff)) (en : Word 2) :
    (b.coeffWrite a v en).coeffMem = b.coeffMem.write a.toNat (mergeHalves (b.coeffWord a) v en) := rfl
@[simp] theorem Bridge.coeffWrite_stateMem (a : Word c.caw) (v : Word (c.wCoeff + c.wCoeff)) (en : Word 2) :
    (b.coeffWrite a v en).stateMem = b.stateMem := rfl
@[simp] theorem Bridge.coeffWrite_inputs (a : Word c.caw) (v : Word (c.wCoeff + c.wCoeff)) (en : Word 2) :
    (b.coeffWrite a v en).inputs = b.inputs := rfl
@[simp] theorem Bridge.coeffWrite_time (a : Word c.caw) (v : Word (c.wCoeff + c.wCoeff)) (en : Word 2) :
    (b.coeffWrite a v en).time = b.time := rfl
@[simp] theorem Bridge.coeffWrite_idleEngine (a : Word c.caw) (v : Word (c.wCoeff + c.wCoeff)) (en : Word 2) :
    (b.coeffWrite a v en).idleEngine = b.idleEngine := rfl
@[simp] theorem Bridge.coeffWrite_outs (a : Word c.caw) (v : Word (c.wCoeff + c.wCoeff)) (en : Word 2) :
    (b.coeffWrite a v en).outs = b.outs := rfl
@[simp] theorem Bridge.coeffWrite_draws (a : Word c.caw) (v : Word (c.wCoeff + c.wCoeff)) (en : Word 2) :
    (b.coeffWrite a v en).draws = b.draws := rfl

@[simp] theorem Bridge.coeffWrite_stateWord (x : Word c.caw) (v : Word (c.wCoeff + c.wCoeff)) (en : Word 2) (a : Word c.saw) :
    (b.coeffWrite x v en).stateWord a = b.stateWord a := rfl

/-! `Bridge.stateWrite` -/

@[simp] theorem Bridge.stateWrite_rdPending (a : Word c.saw) (v : Word c.wState) :
    (b.stateWrite a v).rdPending = b.rdPending := rfl
@[simp] theorem Bridge.stateWrite_rdStateSel (a : Word c.saw) (v : Word c.wState) :
    (b.stateWrite a v).rdStateSel = b.rdStateSel := rfl
@[simp] theorem Bridge.stateWrite_rdSel3 (a : Word c.saw) (v : Word c.wState) :
    (b.stateWrite a v).rdSel3 = b.rdSel3 := rfl
@[simp] theorem Bridge.stateWrite_rdContended (a : Word c.saw) (v : Word c.wState) :
    (b.stateWrite a v).rdContended = b.rdContended := rfl
@[simp] theorem Bridge.stateWrite_rdAdr (a : Word c.saw) (v : Word c.wState) :
    (b.stateWrite a v).rdAdr = b.rdAdr := rfl
@[simp] theorem Bridge.stateWrite_config (a : Word c.saw) (v : Word c.wState) :
    (b.stateWrite a v).config = b.config := rfl
@[simp] theorem Bridge.stateWrite_cfgPendValid (a : Word c.saw) (v : Word c.wState) :
    (b.stateWrite a v).cfgPendValid = b.cfgPendValid := rfl
@[simp] theorem Bridge.stateWrite_cfgPendBit (a : Word c.saw) (v : Word c.wState) :
    (b.stateWrite a v).cfgPendBit = b.cfgPendBit := rfl
@[simp] theorem Bridge.stateWrite_ctrlWord (a : Word c.saw) (v : Word c.wState) :
    (b.stateWrite a v).ctrlWord = b.ctrlWord := rfl
@[simp] theorem Bridge.stateWrite_coeffMem (a : Word c.saw) (v : Word c.wState) :
    (b.stateWrite a v).coeffMem = b.coeffMem := rfl
@[simp] theorem Bridge.stateWrite_stateMem (a : Word c.saw) (v : Word c.wState) :
    (b.stateWrite a v).stateMem = b.stateMem.write a.toNat v := rfl
@[simp] theorem Bridge.stateWrite_inputs (a : Word c.saw) (v : Word c.wState) :
    (b.stateWrite a v).inputs = b.inputs := rfl
@[simp] theorem Bridge.stateWrite_time (a : Word c.saw) (v : Word c.wState) :
    (b.stateWrite a v).time = b.time := rfl
@[simp] theorem Bridge.stateWrite_idleEngine (a : Word c.saw) (v : Word c.wState) :
    (b.stateWrite a v).idleEngine = b.idleEngine := rfl
@[simp] theorem Bridge.stateWrite_outs (a : Word c.saw) (v : Word c.wState) :
    (b.stateWrite a v).outs = b.outs := rfl
@[simp] theorem Bridge.stateWrite_draws (a : Word c.saw) (v : Word c.wState) :
    (b.stateWrite a v).draws = b.draws := rfl

@[simp] theorem Bridge.stateWrite_coeffWord (x : Word c.saw) (v : Word c.wState) (a : Word c.caw) :
    (b.stateWrite x v).coeffWord a = b.coeffWord a := rfl

/-! `Bridge.handOff` -/

@[simp] theorem Bridge.handOff_rdPending (bit : Bool) :
    (b.handOff bit).rdPending = b.rdPending := rfl
@[simp] theorem Bridge.handOff_rdStateSel (bit : Bool) :
    (b.handOff bit).rdStateSel = b.rdStateSel := rfl
@[simp] theorem Bridge.handOff_rdSel3 (bit : Bool) :
    (b.handOff bit).rdSel3 = b.rdSel3 := rfl
@[simp] theorem Bridge.handOff_rdContended (bit : Bool) :
    (b.handOff bit).rdContended = b.rdContended := rfl
@[simp] theorem Bridge.handOff_rdAdr (bit : Bool) :
    (b.handOff bit).rdAdr = b.rdAdr := rfl
@[simp] theorem Bridge.handOff_config (bit : Bool) :
    (b.handOff bit).config = b.config := rfl
@[simp] theorem Bridge.handOff_cfgPendValid (bit : Bool) :
    (b.handOff bit).cfgPendValid = true := rfl
@[simp] theorem Bridge.handOff_cfgPendBit (bit : Bool) :
    (b.handOff bit).cfgPendBit = bit := rfl
@[simp] theorem Bridge.handOff_ctrlWord (bit : Bool) :
    (b.handOff bit).ctrlWord = b.ctrlWord := rfl
@[simp] theorem Bridge.handOff_coeffMem (bit : Bool) :
    (b.handOff bit).coeffMem = b.coeffMem := rfl
@[simp] theorem Bridge.handOff_stateMem (bit : Bool) :
    (b.handOff bit).stateMem = b.stateMem := rfl
@[simp] theorem Bridge.handOff_inputs (bit : Bool) :
    (b.handOff bit).inputs = b.inputs := rfl
@[simp] theorem Bridge.handOff_time (bit : Bool) :
    (b.handOff bit).time = b.time := rfl
@[simp] theorem Bridge.handOff_idleEngine (bit : Bool) :
    (b.handOff bit).idleEngine = b.idleEngine := rfl
@[simp] theorem Bridge.handOff_outs (bit : Bool) :
    (b.handOff bit).outs = b.outs := rfl
@[simp] theorem Bridge.handOff_draws (bit : Bool) :
    (b.handOff bit).draws = b.draws := rfl

@[simp] theorem Bridge.handOff_coeffWord (bit : Bool) (a : Word c.caw) :
    (b.handOff bit).coeffWord a = b.coeffWord a := rfl
@[simp] theorem Bridge.handOff_stateWord (bit : Bool) (a : Word c.saw) :
    (b.handOff bit).stateWord a = b.stateWord a := rfl

/-! `Bridge.updatePoint` -/

@[simp] theorem Bridge.updatePoint_rdPending (tick : Bool) :
    (b.updatePoint tick).rdPending = b.rdPending := by cases tick <;> rfl
@[simp] theorem Bridge.updatePoint_rdStateSel (tick : Bool) :
    (b.updatePoint tick).rdStateSel = b.rdStateSel := by cases tick <;> rfl
@[simp] theorem Bridge.updatePoint_rdSel3 (tick : Bool) :
    (b.updatePoint tick).rdSel3 = b.rdSel3 := by cases tick <;> rfl
@[simp] theorem Bridge.updatePoint_rdContended (tick : Bool) :
    (b.updatePoint tick).rdContended = b.rdContended := by cases tick <;> rfl
@[simp] theorem Bridge.updatePoint_rdAdr (tick : Bool) :
    (b.updatePoint tick).rdAdr = b.rdAdr := by cases tick <;> rfl
@[simp] theorem Bridge.updatePoint_config (tick : Bool) :
    (b.updatePoint tick).config = if tick && b.cfgPendValid then b.cfgPendBit else b.config := by
  cases tick <;> rfl
@[simp] theorem Bridge.updatePoint_cfgPendValid (tick : Bool) :
    (b.updatePoint tick).cfgPendValid = (!tick && b.cfgPendValid) := by cases tick <;> rfl
@[simp] theorem Bridge.updatePoint_cfgPendBit (tick : Bool) :
    (b.updatePoint tick).cfgPendBit = b.cfgPendBit := by cases tick <;> rfl
@[simp] theorem Bridge.updatePoint_ctrlWord (tick : Bool) :
    (b.updatePoint tick).ctrlWord = b.ctrlWord := by cases tick <;> rfl
@[simp] theorem Bridge.updatePoint_coeffMem (tick : Bool) :
    (b.updatePoint tick).coeffMem = b.coeffMem := by cases tick <;> rfl
@[simp] theorem Bridge.updatePoint_stateMem (tick : Bool) :
    (b.updatePoint tick).stateMem = b.stateMem := by cases tick <;> rfl
@[simp] theorem Bridge.updatePoint_inputs (tick : Bool) :
    (b.updatePoint tick).inputs = b.inputs := by cases tick <;> rfl
@[simp] theorem Bridge.updatePoint_time (tick : Bool) :
    (b.updatePoint tick).time = b.time := by cases tick <;> rfl
@[simp] theorem Bridge.updatePoint_idleEngine (tick : Bool) :
    (b.updatePoint tick).idleEngine = b.idleEngine := by cases tick <;> rfl
@[simp] theorem Bridge.updatePoint_outs (tick : Bool) :
    (b.updatePoint tick).outs = b.outs := by cases tick <;> rfl
@[simp] theorem Bridge.updatePoint_draws (tick : Bool) :
    (b.updatePoint tick).draws = b.draws := by cases tick <;> rfl

@[simp] theorem Bridge.updatePoint_coeffWord (tick : Bool) (a : Word c.caw) :
    (b.updatePoint tick).coeffWord a = b.coeffWord a := by cases tick <;> rfl
@[simp] theorem Bridge.updatePoint_stateWord (tick : Bool) (a : Word c.saw) :
    (b.updatePoint tick).stateWord a = b.stateWord a := by cases tick <;> rfl

@[simp] theorem Bridge.updatePoint_engineWriteHits (tick : Bool) :
    (b.updatePoint tick).engineWriteHits = b.engineWriteHits := by cases tick <;> rfl

/-! `Bridge.loadCtrl` -/

@[simp] theorem Bridge.loadCtrl_rdPending (ch : Nat) (h : ch < c.nCh) (v : Word c.wCtrl) :
    (b.loadCtrl ch h v).rdPending = b.rdPending := rfl
@[simp] theorem Bridge.loadCtrl_rdStateSel (ch : Nat) (h : ch < c.nCh) (v : Word c.wCtrl) :
    (b.loadCtrl ch h v).rdStateSel = b.rdStateSel := rfl
@[simp] theorem Bridge.loadCtrl_rdSel3 (ch : Nat) (h : ch < c.nCh) (v : Word c.wCtrl) :
    (b.loadCtrl ch h v).rdSel3 = b.rdSel3 := rfl
@[simp] theorem Bridge.loadCtrl_rdContended (ch : Nat) (h : ch < c.nCh) (v : Word c.wCtrl) :
    (b.loadCtrl ch h v).rdContended = b.rdContended := rfl
@[simp] theorem Bridge.loadCtrl_rdAdr (ch : Nat) (h : ch < c.nCh) (v : Word c.wCtrl) :
    (b.loadCtrl ch h v).rdAdr = b.rdAdr := rfl
@[simp] theorem Bridge.loadCtrl_config (ch : Nat) (h : ch < c.nCh) (v : Word c.wCtrl) :
    (b.loadCtrl ch h v).config = b.config := rfl
@[simp] theorem Bridge.loadCtrl_cfgPendValid (ch : Nat) (h : ch < c.nCh) (v : Word c.wCtrl) :
    (b.loadCtrl ch h v).cfgPendValid = b.cfgPendValid := rfl
@[simp] theorem Bridge.loadCtrl_cfgPendBit (ch : Nat) (h : ch < c.nCh) (v : Word c.wCtrl) :
    (b.loadCtrl ch h v).cfgPendBit = b.cfgPendBit := rfl
@[simp] theorem Bridge.loadCtrl_ctrlWord (ch : Nat) (h : ch < c.nCh) (v : Word c.wCtrl) :
    (b.loadCtrl ch h v).ctrlWord = b.ctrlWord.set ch v h := rfl
@[simp] theorem Bridge.loadCtrl_coeffMem (ch : Nat) (h : ch < c.nCh) (v : Word c.wCtrl) :
    (b.loadCtrl ch h v).coeffMem = b.coeffMem := rfl
@[simp] theorem Bridge.loadCtrl_stateMem (ch : Nat) (h : ch < c.nCh) (v : Word c.wCtrl) :
    (b.loadCtrl ch h v).stateMem = b.stateMem := rfl
@[simp] theorem Bridge.loadCtrl_inputs (ch : Nat) (h : ch < c.nCh) (v : Word c.wCtrl) :
    (b.loadCtrl ch h v).inputs = b.inputs := rfl
@[simp] theorem Bridge.loadCtrl_time (ch : Nat) (h : ch < c.nCh) (v : Word c.wCtrl) :
    (b.loadCtrl ch h v).time = b.time := rfl
@[simp] theorem Bridge.loadCtrl_idleEngine (ch : Nat) (h : ch < c.nCh) (v : Word c.wCtrl) :
    (b.loadCtrl ch h v).idleEngine = b.idleEngine := rfl
@[simp] theorem Bridge.loadCtrl_outs (ch : Nat) (h : ch < c.nCh) (v : Word c.wCtrl) :
    (b.loadCtrl ch h v).outs = b.outs := rfl
@[simp] theorem Bridge.loadCtrl_draws (ch : Nat) (h : ch < c.nCh) (v : Word c.wCtrl) :
    (b.loadCtrl ch h v).draws = b.draws := rfl

@[simp] theorem Bridge.loadCtrl_coeffWord (ch : Nat) (h : ch < c.nCh) (v : Word c.wCtrl) (a : Word c.caw) :
    (b.loadCtrl ch h v).coeffWord a = b.coeffWord a := rfl
@[simp] theorem Bridge.loadCtrl_stateWord (ch : Nat) (h : ch < c.nCh) (v : Word c.wCtrl) (a : Word c.saw) :
    (b.loadCtrl ch h v).stateWord a = b.stateWord a := rfl

/-! `Bridge.draw` -/

@[simp] theorem Bridge.draw_rdPending :
    b.draw.rdPending = b.rdPending := rfl
@[simp] theorem Bridge.draw_rdStateSel :
    b.draw.rdStateSel = b.rdStateSel := rfl
@[simp] theorem Bridge.draw_rdSel3 :
    b.draw.rdSel3 = b.rdSel3 := rfl
@[simp] theorem Bridge.draw_rdContended :
    b.draw.rdContended = b.rdContended := rfl
@[simp] theorem Bridge.draw_rdAdr :
    b.draw.rdAdr = b.rdAdr := rfl
@[simp] theorem Bridge.draw_config :
    b.draw.config = b.config := rfl
@[simp] theorem Bridge.draw_cfgPendValid :
    b.draw.cfgPendValid = b.cfgPendValid := rfl
@[simp] theorem Bridge.draw_cfgPendBit :
    b.draw.cfgPendBit = b.cfgPendBit := rfl
@[simp] theorem Bridge.draw_ctrlWord :
    b.draw.ctrlWord = b.ctrlWord := rfl
@[simp] theorem Bridge.draw_coeffMem :
    b.draw.coeffMem = b.coeffMem := rfl
@[simp] theorem Bridge.draw_stateMem :
    b.draw.stateMem = b.stateMem := rfl
@[simp] theorem Bridge.draw_inputs :
    b.draw.inputs = b.inputs := rfl
@[simp] theorem Bridge.draw_time :
    b.draw.time = b.time := rfl
@[simp] theorem Bridge.draw_idleEngine :
    b.draw.idleEngine = b.idleEngine := rfl
@[simp] theorem Bridge.draw_outs :
    b.draw.outs = b.outs := rfl
@[simp] theorem Bridge.draw_draws :
    b.draw.draws = b.draws + 1 := rfl

@[simp] theorem Bridge.draw_coeffWord (a : Word c.caw) :
    b.draw.coeffWord a = b.coeffWord a := rfl
@[simp] theorem Bridge.draw_stateWord (a : Word c.saw) :
    b.draw.stateWord a = b.stateWord a := rfl

/-! `Bridge.noteContention` -/

@[simp] theorem Bridge.noteContention_rdPending (ws : List EngineWrite) :
    (b.noteContention ws).rdPending = b.rdPending := by
  unfold Bridge.noteContention; split <;> rfl
@[simp] theorem Bridge.noteContention_rdStateSel (ws : List EngineWrite) :
    (b.noteContention ws).rdStateSel = b.rdStateSel := by
  unfold Bridge.noteContention; split <;> rfl
@[simp] theorem Bridge.noteContention_rdSel3 (ws : List EngineWrite) :
    (b.noteContention ws).rdSel3 = b.rdSel3 := by
  unfold Bridge.noteContention; split <;> rfl
/-- What is noted of a read request of this cycle. -/
@[simp] theorem Bridge.noteContention_rdContended (ws : List EngineWrite) :
    (b.noteContention ws).rdContended = if b.rdPending then ws.any b.engineWriteHits else b.rdContended := by
  unfold Bridge.noteContention; split <;> rfl
@[simp] theorem Bridge.noteContention_rdAdr (ws : List EngineWrite) :
    (b.noteContention ws).rdAdr = b.rdAdr := by
  unfold Bridge.noteContention; split <;> rfl
@[simp] theorem Bridge.noteContention_config (ws : List EngineWrite) :
    (b.noteContention ws).config = b.config := by
  unfold Bridge.noteContention; split <;> rfl
@[simp] theorem Bridge.noteContention_cfgPendValid (ws : List EngineWrite) :
    (b.noteContention ws).cfgPendValid = b.cfgPendValid := by
  unfold Bridge.noteContention; split <;> rfl
@[simp] theorem Bridge.noteContention_cfgPendBit (ws : List EngineWrite) :
    (b.noteContention ws).cfgPendBit = b.cfgPendBit := by
  unfold Bridge.noteContention; split <;> rfl
@[simp] theorem Bridge.noteContention_ctrlWord (ws : List EngineWrite) :
    (b.noteContention ws).ctrlWord = b.ctrlWord := by
  unfold Bridge.noteContention; split <;> rfl
@[simp] theorem Bridge.noteContention_coeffMem (ws : List EngineWrite) :
    (b.noteContention ws).coeffMem = b.coeffMem := by
  unfold Bridge.noteContention; split <;> rfl
@[simp] theorem Bridge.noteContention_stateMem (ws : List EngineWrite) :
    (b.noteContention ws).stateMem = b.stateMem := by
  unfold Bridge.noteContention; split <;> rfl
@[simp] theorem Bridge.noteContention_inputs (ws : List EngineWrite) :
    (b.noteContention ws).inputs = b.inputs := by
  unfold Bridge.noteContention; split <;> rfl
@[simp] theorem Bridge.noteContention_time (ws : List EngineWrite) :
    (b.noteContention ws).time = b.time := by
  unfold Bridge.noteContention; split <;> rfl
@[simp] theorem Bridge.noteContention_idleEngine (ws : List EngineWrite) :
    (b.noteContention ws).idleEngine = b.idleEngine := by
  unfold Bridge.noteContention; split <;> rfl
@[simp] theorem Bridge.noteContention_outs (ws : List EngineWrite) :
    (b.noteContention ws).outs = b.outs := by
  unfold Bridge.noteContention; split <;> rfl
@[simp] theorem Bridge.noteContention_draws (ws : List EngineWrite) :
    (b.noteContention ws).draws = b.draws := by
  unfold Bridge.noteContention; split <;> rfl

@[simp] theorem Bridge.noteContention_coeffWord (ws : List EngineWrite) (a : Word c.caw) :
    (b.noteContention ws).coeffWord a = b.coeffWord a := by
  unfold Bridge.noteContention; split <;> rfl
@[simp] theorem Bridge.noteContention_stateWord (ws : List EngineWrite) (a : Word c.saw) :
    (b.noteContention ws).stateWord a = b.stateWord a := by
  unfold Bridge.noteContention; split <;> rfl

/-! `Bridge.resetRegs` -/

@[simp] theorem Bridge.resetRegs_rdPending :
    b.resetRegs.rdPending = false := rfl
@[simp] theorem Bridge.resetRegs_rdStateSel :
    b.resetRegs.rdStateSel = false := rfl
@[simp] theorem Bridge.resetRegs_rdSel3 :
    b.resetRegs.rdSel3 = false := rfl
@[simp] theorem Bridge.resetRegs_rdContended :
    b.resetRegs.rdContended = false := rfl
@[simp] theorem Bridge.resetRegs_rdAdr :
    b.resetRegs.rdAdr = 0 := rfl
@[simp] theorem Bridge.resetRegs_config :
    b.resetRegs.config = false := rfl
@[simp] theorem Bridge.resetRegs_cfgPendValid :
    b.resetRegs.cfgPendValid = false := rfl
@[simp] theorem Bridge.resetRegs_cfgPendBit :
    b.resetRegs.cfgPendBit = false := rfl
@[simp] theorem Bridge.resetRegs_ctrlWord :
    b.resetRegs.ctrlWord = Vector.replicate c.nCh 0 := rfl
@[simp] theorem Bridge.resetRegs_coeffMem :
    b.resetRegs.coeffMem = b.coeffMem := rfl
@[simp] theorem Bridge.resetRegs_stateMem :
    b.resetRegs.stateMem = b.stateMem := rfl
@[simp] theorem Bridge.resetRegs_inputs :
    b.resetRegs.inputs = b.inputs := rfl
@[simp] theorem Bridge.resetRegs_time :
    b.resetRegs.time = b.time := rfl
@[simp] theorem Bridge.resetRegs_idleEngine :
    b.resetRegs.idleEngine = b.idleEngine := rfl
@[simp] theorem Bridge.resetRegs_outs :
    b.resetRegs.outs = b.outs := rfl
@[simp] theorem Bridge.resetRegs_draws :
    b.resetRegs.draws = b.draws := rfl

@[simp] theorem Bridge.resetRegs_coeffWord (a : Word c.caw) :
    b.resetRegs.coeffWord a = b.coeffWord a := rfl
@[simp] theorem Bridge.resetRegs_stateWord (a : Word c.saw) :
    b.resetRegs.stateWord a = b.stateWord a := rfl

/-! `Bridge.takeInput` -/

@[simp] theorem Bridge.takeInput_rdPending :
    b.takeInput.rdPending = b.rdPending := rfl
@[simp] theorem Bridge.takeInput_rdStateSel :
    b.takeInput.rdStateSel = b.rdStateSel := rfl
@[simp] theorem Bridge.takeInput_rdSel3 :
    b.takeInput.rdSel3 = b.rdSel3 := rfl
@[simp] theorem Bridge.takeInput_rdContended :
    b.takeInput.rdContended = b.rdContended := rfl
@[simp] theorem Bridge.takeInput_rdAdr :
    b.takeInput.rdAdr = b.rdAdr := rfl
@[simp] theorem Bridge.takeInput_config :
    b.takeInput.config = b.config := rfl
@[simp] theorem Bridge.takeInput_cfgPendValid :
    b.takeInput.cfgPendValid = b.cfgPendValid := rfl
@[simp] theorem Bridge.takeInput_cfgPendBit :
    b.takeInput.cfgPendBit = b.cfgPendBit := rfl
@[simp] theorem Bridge.takeInput_ctrlWord :
    b.takeInput.ctrlWord = b.ctrlWord := rfl
@[simp] theorem Bridge.takeInput_coeffMem :
    b.takeInput.coeffMem = b.coeffMem := rfl
@[simp] theorem Bridge.takeInput_stateMem :
    b.takeInput.stateMem = b.stateMem := rfl
@[simp] theorem Bridge.takeInput_inputs :
    b.takeInput.inputs = b.inputs.tail := rfl
@[simp] theorem Bridge.takeInput_time :
    b.takeInput.time = b.time + 1 := rfl
@[simp] theorem Bridge.takeInput_idleEngine :
    b.takeInput.idleEngine = b.idleEngine := rfl
@[simp] theorem Bridge.takeInput_outs :
    b.takeInput.outs = b.outs := rfl
@[simp] theorem Bridge.takeInput_draws :
    b.takeInput.draws = b.draws := rfl

@[simp] theorem Bridge.takeInput_coeffWord (a : Word c.caw) :
    b.takeInput.coeffWord a = b.coeffWord a := rfl
@[simp] theorem Bridge.takeInput_stateWord (a : Word c.saw) :
    b.takeInput.stateWord a = b.stateWord a := rfl

/-! `Bridge.yieldOutputs` -/

@[simp] theorem Bridge.yieldOutputs_rdPending (o : Outputs c) :
    (b.yieldOutputs o).rdPending = b.rdPending := rfl
@[simp] theorem Bridge.yieldOutputs_rdStateSel (o : Outputs c) :
    (b.yieldOutputs o).rdStateSel = b.rdStateSel := rfl
@[simp] theorem Bridge.yieldOutputs_rdSel3 (o : Outputs c) :
    (b.yieldOutputs o).rdSel3 = b.rdSel3 := rfl
@[simp] theorem Bridge.yieldOutputs_rdContended (o : Outputs c) :
    (b.yieldOutputs o).rdContended = b.rdContended := rfl
@[simp] theorem Bridge.yieldOutputs_rdAdr (o : Outputs c) :
    (b.yieldOutputs o).rdAdr = b.rdAdr := rfl
@[simp] theorem Bridge.yieldOutputs_config (o : Outputs c) :
    (b.yieldOutputs o).config = b.config := rfl
@[simp] theorem Bridge.yieldOutputs_cfgPendValid (o : Outputs c) :
    (b.yieldOutputs o).cfgPendValid = b.cfgPendValid := rfl
@[simp] theorem Bridge.yieldOutputs_cfgPendBit (o : Outputs c) :
    (b.yieldOutputs o).cfgPendBit = b.cfgPendBit := rfl
@[simp] theorem Bridge.yieldOutputs_ctrlWord (o : Outputs c) :
    (b.yieldOutputs o).ctrlWord = b.ctrlWord := rfl
@[simp] theorem Bridge.yieldOutputs_coeffMem (o : Outputs c) :
    (b.yieldOutputs o).coeffMem = b.coeffMem := rfl
@[simp] theorem Bridge.yieldOutputs_stateMem (o : Outputs c) :
    (b.yieldOutputs o).stateMem = b.stateMem := rfl
@[simp] theorem Bridge.yieldOutputs_inputs (o : Outputs c) :
    (b.yieldOutputs o).inputs = b.inputs := rfl
@[simp] theorem Bridge.yieldOutputs_time (o : Outputs c) :
    (b.yieldOutputs o).time = b.time := rfl
@[simp] theorem Bridge.yieldOutputs_idleEngine (o : Outputs c) :
    (b.yieldOutputs o).idleEngine = b.idleEngine := rfl
@[simp] theorem Bridge.yieldOutputs_outs (o : Outputs c) :
    (b.yieldOutputs o).outs = o :: b.outs := rfl
@[simp] theorem Bridge.yieldOutputs_draws (o : Outputs c) :
    (b.yieldOutputs o).draws = b.draws := rfl

@[simp] theorem Bridge.yieldOutputs_coeffWord (o : Outputs c) (a : Word c.caw) :
    (b.yieldOutputs o).coeffWord a = b.coeffWord a := rfl
@[simp] theorem Bridge.yieldOutputs_stateWord (o : Outputs c) (a : Word c.saw) :
    (b.yieldOutputs o).stateWord a = b.stateWord a := rfl

/-! `Bridge.engineWrites` leaves every register alone: it reaches the memories and the draws only (R244). -/

@[simp] theorem Bridge.engineWrite_rdPending (w : EngineWrite) : (b.engineWrite w).rdPending = b.rdPending := by cases w <;> rfl
@[simp] theorem Bridge.engineWrite_rdStateSel (w : EngineWrite) : (b.engineWrite w).rdStateSel = b.rdStateSel := by cases w <;> rfl
@[simp] theorem Bridge.engineWrite_rdSel3 (w : EngineWrite) : (b.engineWrite w).rdSel3 = b.rdSel3 := by cases w <;> rfl
@[simp] theorem Bridge.engineWrite_rdContended (w : EngineWrite) : (b.engineWrite w).rdContended = b.rdContended := by cases w <;> rfl
@[simp] theorem Bridge.engineWrite_rdAdr (w : EngineWrite) : (b.engineWrite w).rdAdr = b.rdAdr := by cases w <;> rfl
@[simp] theorem Bridge.engineWrite_config (w : EngineWrite) : (b.engineWrite w).config = b.config := by cases w <;> rfl
@[simp] theorem Bridge.engineWrite_cfgPendValid (w : EngineWrite) : (b.engineWrite w).cfgPendValid = b.cfgPendValid := by cases w <;> rfl
@[simp] theorem Bridge.engineWrite_cfgPendBit (w : EngineWrite) : (b.engineWrite w).cfgPendBit = b.cfgPendBit := by cases w <;> rfl
@[simp] theorem Bridge.engineWrite_ctrlWord (w : EngineWrite) : (b.engineWrite w).ctrlWord = b.ctrlWord := by cases w <;> rfl
@[simp] theorem Bridge.engineWrite_inputs (w : EngineWrite) : (b.engineWrite w).inputs = b.inputs := by cases w <;> rfl
@[simp] theorem Bridge.engineWrite_time (w : EngineWrite) : (b.engineWrite w).time = b.time := by cases w <;> rfl
@[simp] theorem Bridge.engineWrite_idleEngine (w : EngineWrite) : (b.engineWrite w).idleEngine = b.idleEngine := by cases w <;> rfl
@[simp] theorem Bridge.engineWrite_outs (w : EngineWrite) : (b.engineWrite w).outs = b.outs := by cases w <;> rfl

@[simp] theorem Bridge.engineWrites_rdPending (ws : List EngineWrite) : (b.engineWrites ws).rdPending = b.rdPending := by
  induction ws generalizing b with
  | nil => rfl
  | cons w ws ih => simp [Bridge.engineWrites, ih]
@[simp] theorem Bridge.engineWrites_rdStateSel (ws : List EngineWrite) : (b.engineWrites ws).rdStateSel = b.rdStateSel := by
  induction ws generalizing b with
  | nil => rfl
  | cons w ws ih => simp [Bridge.engineWrites, ih]
@[simp] theorem Bridge.engineWrites_rdSel3 (ws : List EngineWrite) : (b.engineWrites ws).rdSel3 = b.rdSel3 := by
  induction ws generalizing b with
  | nil => rfl
  | cons w ws ih => simp [Bridge.engineWrites, ih]
@[simp] theorem Bridge.engineWrites_rdContended (ws : List EngineWrite) : (b.engineWrites ws).rdContended = b.rdContended := by
  induction ws generalizing b with
  | nil => rfl
  | cons w ws ih => simp [Bridge.engineWrites, ih]
@[simp] theorem Bridge.engineWrites_rdAdr (ws : List EngineWrite) : (b.engineWrites ws).rdAdr = b.rdAdr := by
  induction ws generalizing b with
  | nil => rfl
  | cons w ws ih => simp [Bridge.engineWrites, ih]
@[simp] theorem Bridge.engineWrites_config (ws : List EngineWrite) : (b.engineWrites ws).config = b.config := by
  induction ws generalizing b with
  | nil => rfl
  | cons w ws ih => simp [Bridge.engineWrites, ih]
@[simp] theorem Bridge.engineWrites_cfgPendValid (ws : List EngineWrite) : (b.engineWrites ws).cfgPendValid = b.cfgPendValid := by
  induction ws generalizing b with
  | nil => rfl
  | cons w ws ih => simp [Bridge.engineWrites, ih]
@[simp] theorem Bridge.engineWrites_cfgPendBit (ws : List EngineWrite) : (b.engineWrites ws).cfgPendBit = b.cfgPendBit := by
  induction ws generalizing b with
  | nil => rfl
  | cons w ws ih => simp [Bridge.engineWrites, ih]
@[simp] theorem Bridge.engineWrites_ctrlWord (ws : List EngineWrite) : (b.engineWrites ws).ctrlWord = b.ctrlWord := by
  induction ws generalizing b with
  | nil => rfl
  | cons w ws ih => simp [Bridge.engineWrites, ih]
@[simp] theorem Bridge.engineWrites_inputs (ws : List EngineWrite) : (b.engineWrites ws).inputs = b.inputs := by
  induction ws generalizing b with
  | nil => rfl
  | cons w ws ih => simp [Bridge.engineWrites, ih]
@[simp] theorem Bridge.engineWrites_time (ws : List EngineWrite) : (b.engineWrites ws).time = b.time := by
  induction ws generalizing b with
  | nil => rfl
  | cons w ws ih => simp [Bridge.engineWrites, ih]
@[simp] theorem Bridge.engineWrites_idleEngine (ws : List EngineWrite) : (b.engineWrites ws).idleEngine = b.idleEngine := by
  induction ws generalizing b with
  | nil => rfl
  | cons w ws ih => simp [Bridge.engineWrites, ih]
@[simp] theorem Bridge.engineWrites_outs (ws : List EngineWrite) : (b.engineWrites ws).outs = b.outs := by
  induction ws generalizing b with
  | nil => rfl
  | cons w ws ih => simp [Bridge.engineWrites, ih]

/-! `Bridge.closeCycle` -/

@[simp] theorem Bridge.closeCycle_rdPending (tick : Bool) (ws : List EngineWrite) :
    (b.closeCycle tick ws).rdPending = b.rdPending := by simp [Bridge.closeCycle]
@[simp] theorem Bridge.closeCycle_rdStateSel (tick : Bool) (ws : List EngineWrite) :
    (b.closeCycle tick ws).rdStateSel = b.rdStateSel := by simp [Bridge.closeCycle]
@[simp] theorem Bridge.closeCycle_rdSel3 (tick : Bool) (ws : List EngineWrite) :
    (b.closeCycle tick ws).rdSel3 = b.rdSel3 := by simp [Bridge.closeCycle]
@[simp] theorem Bridge.closeCycle_rdContended (tick : Bool) (ws : List EngineWrite) :
    (b.closeCycle tick ws).rdContended = if b.rdPending then ws.any b.engineWriteHits else b.rdContended := by
  simp [Bridge.closeCycle]
@[simp] theorem Bridge.closeCycle_rdAdr (tick : Bool) (ws : List EngineWrite) :
    (b.closeCycle tick ws).rdAdr = b.rdAdr := by simp [Bridge.closeCycle]
@[simp] theorem Bridge.closeCycle_config (tick : Bool) (ws : List EngineWrite) :
    (b.closeCycle tick ws).config = if tick && b.cfgPendValid then b.cfgPendBit else b.config := by simp [Bridge.closeCycle]
@[simp] theorem Bridge.closeCycle_cfgPendValid (tick : Bool) (ws : List EngineWrite) :
    (b.closeCycle tick ws).cfgPendValid = (!tick && b.cfgPendValid) := by simp [Bridge.closeCycle]
@[simp] theorem Bridge.closeCycle_cfgPendBit (tick : Bool) (ws : List EngineWrite) :
    (b.closeCycle tick ws).cfgPendBit = b.cfgPendBit := by simp [Bridge.closeCycle]
@[simp] theorem Bridge.closeCycle_ctrlWord (tick : Bool) (ws : List EngineWrite) :
    (b.closeCycle tick ws).ctrlWord = b.ctrlWord := by simp [Bridge.closeCycle]
@[simp] theorem Bridge.closeCycle_inputs (tick : Bool) (ws : List EngineWrite) :
    (b.closeCycle tick ws).inputs = b.inputs := by simp [Bridge.closeCycle]
@[simp] theorem Bridge.closeCycle_time (tick : Bool) (ws : List EngineWrite) :
    (b.closeCycle tick ws).time = b.time := by simp [Bridge.closeCycle]
@[simp] theorem Bridge.closeCycle_idleEngine (tick : Bool) (ws : List EngineWrite) :
    (b.closeCycle tick ws).idleEngine = b.idleEngine := by simp [Bridge.closeCycle]
@[simp] theorem Bridge.closeCycle_outs (tick : Bool) (ws : List EngineWrite) :
    (b.closeCycle tick ws).outs = b.outs := by simp [Bridge.closeCycle]

@[simp] theorem Bridge.closeCycle_coeffMem (tick : Bool) : (b.closeCycle tick []).coeffMem = b.coeffMem := by
  simp [Bridge.closeCycle, Bridge.engineWrites]
@[simp] theorem Bridge.closeCycle_stateMem (tick : Bool) : (b.closeCycle tick []).stateMem = b.stateMem := by
  simp [Bridge.closeCycle, Bridge.engineWrites]
@[simp] theorem Bridge.closeCycle_draws (tick : Bool) : (b.closeCycle tick []).draws = b.draws + 1 := by
  simp [Bridge.closeCycle, Bridge.engineWrites]
@[simp] theorem Bridge.closeCycle_coeffWord (tick : Bool) (a : Word c.caw) :
    (b.closeCycle tick []).coeffWord a = b.coeffWord a := by simp [Bridge.coeffWord]
@[simp] theorem Bridge.closeCycle_stateWord (tick : Bool) (a : Word c.saw) :
    (b.closeCycle tick []).stateWord a = b.stateWord a := by simp [Bridge.stateWord]

/-! `State.openCycle`, `State.closeCycle`, `State.afterReset` -/

variable (s : State)

@[simp] theorem State.openCycle_cfg : s.openCycle.cfg = s.cfg := rfl
@[simp] theorem State.openCycle_br :
    s.openCycle.br = (s.br.yieldOutputs (s.br.outputs s.br.currentIn)).takeInput := rfl
@[simp] theorem State.closeCycle_cfg (tick : Bool) (ws : List EngineWrite) : (s.closeCycle tick ws).cfg = s.cfg := rfl
@[simp] theorem State.closeCycle_br (tick : Bool) (ws : List EngineWrite) :
    (s.closeCycle tick ws).br = s.br.closeCycle tick ws := rfl
@[simp] theorem State.afterReset_cfg : s.afterReset.cfg = s.cfg := rfl
@[simp] theorem State.afterReset_br :
    s.afterReset.br = s.br.takeInput.resetRegs.engineWrites s.br.currentIn.engine := rfl

/-- The inputs of a cycle that are listed are those taken. -/
theorem Bridge.currentIn_of_inputs {i : CycleIn c} {is : List (CycleIn c)} (h : b.inputs = i :: is) :
    b.currentIn = i := by
  simp [Bridge.currentIn, h]

end Sys2Proof.Machine
end

