-- ==== Sys2Proof/Laws/Ops.lean ====
section
/-! SUPPORT. One lemma per shared operation that says everything it can do to the memories, and that each keeps the
invariant. (What each does to the registers is in Laws/State.lean.) -/

namespace Sys2Proof.Machine

variable {c : Config} (b : Bridge c)

/-- R68: the word addressed is merged half by half, every other word reads as before. -/
theorem Bridge.coeffWrite_coeffWord (a x : Word c.caw) (v : Word (c.wCoeff + c.wCoeff)) (en : Word 2) :
    (b.coeffWrite a v en).coeffWord x = if x = a then mergeHalves (b.coeffWord a) v en else b.coeffWord x := by
  simp only [Bridge.coeffWord, Bridge.coeffWrite, Memory.read_write, BitVec.toNat_inj]

/-- R69: the word addressed is replaced, every other word reads as before. -/
theorem Bridge.stateWrite_stateWord (a x : Word c.saw) (v : Word c.wState) :
    (b.stateWrite a v).stateWord x = if x = a then v else b.stateWord x := by
  simp only [Bridge.stateWord, Bridge.stateWrite, Memory.read_write, BitVec.toNat_inj]

/-- An engine write to a coefficient word leaves the state memory alone. -/
theorem Bridge.engineWrite_coeff_stateWord (a : Nat) (x : Word c.saw) :
    (b.engineWrite (.coeff a)).stateWord x = b.stateWord x := rfl

/-- An engine write to a state word leaves the coefficient memory alone. -/
theorem Bridge.engineWrite_state_coeffWord (a : Nat) (x : Word c.caw) :
    (b.engineWrite (.state a)).coeffWord x = b.coeffWord x := rfl

/-- An engine write to a coefficient word leaves every other coefficient word alone. -/
theorem Bridge.engineWrite_coeff_coeffWord (a : Nat) (x : Word c.caw) (h : x.toNat ≠ a % 2 ^ c.caw) :
    (b.engineWrite (.coeff a)).coeffWord x = b.coeffWord x := by
  simp [Bridge.coeffWord, Bridge.engineWrite, Memory.read_write, h]

/-- An engine write to a state word leaves every other state word alone. -/
theorem Bridge.engineWrite_state_stateWord (a : Nat) (x : Word c.saw) (h : x.toNat ≠ a % 2 ^ c.saw) :
    (b.engineWrite (.state a)).stateWord x = b.stateWord x := by
  simp [Bridge.stateWord, Bridge.engineWrite, Memory.read_write, h]

variable {b}

theorem Bridge.Inv.coeffWrite (h : b.Inv) (a : Word c.caw) (v : Word (c.wCoeff + c.wCoeff)) (en : Word 2) :
    (b.coeffWrite a v en).Inv := ⟨Memory.write_wf h.1 a.isLt _, h.2⟩

theorem Bridge.Inv.stateWrite (h : b.Inv) (a : Word c.saw) (v : Word c.wState) : (b.stateWrite a v).Inv :=
  ⟨h.1, Memory.write_wf h.2 a.isLt _⟩

theorem Bridge.Inv.engineWrite (h : b.Inv) (w : EngineWrite) : (b.engineWrite w).Inv := by
  cases w with
  | coeff a => exact ⟨Memory.write_wf h.1 (Nat.mod_lt _ (by positivity)) _, h.2⟩
  | state a => exact ⟨h.1, Memory.write_wf h.2 (Nat.mod_lt _ (by positivity)) _⟩

theorem Bridge.Inv.engineWrites (h : b.Inv) (ws : List EngineWrite) : (b.engineWrites ws).Inv := by
  induction ws generalizing b with
  | nil => exact h
  | cons w ws ih => exact ih (h.engineWrite w)

theorem Bridge.Inv.updatePoint (h : b.Inv) (tick : Bool) : (b.updatePoint tick).Inv := by
  cases tick <;> exact h

theorem Bridge.Inv.noteContention (h : b.Inv) (ws : List EngineWrite) : (b.noteContention ws).Inv := by
  unfold Bridge.noteContention
  split <;> exact h

end Sys2Proof.Machine
end

