-- ==== Sys2Proof/Laws/Cycle.lean ====
section
/-! SUPPORT. What the operations on the control buses of one cycle do together: each channel with a strobe loads its data,
every other keeps its word, and nothing else changes. -/

namespace Sys2Proof.Machine

variable {c : Config}

/-- The control words after the requests on the buses of channels `k`, `k + 1`, …. -/
def loadWords (k : Nat) (rs : List (CcrReq c)) (v : Vector (Word c.wCtrl) c.nCh) : Vector (Word c.wCtrl) c.nCh :=
  match rs with
  | [] => v
  | r :: rs => loadWords (k + 1) rs (if r.stb then v.setIfInBounds k r.data else v)

theorem getElem_loadWords (rs : List (CcrReq c)) (k : Nat) (v : Vector (Word c.wCtrl) c.nCh) (j : Nat) (hj : j < c.nCh) :
    (loadWords k rs v)[j] =
      if h : k ≤ j ∧ j - k < rs.length then (if (rs[j - k]'h.2).stb then (rs[j - k]'h.2).data else v[j]) else v[j] := by
  induction rs generalizing k v with
  | nil => simp [loadWords]
  | cons r rs ih =>
    rw [loadWords, ih]
    rcases lt_trichotomy j k with h | rfl | h
    · have h1 : ¬ (k + 1 ≤ j ∧ j - (k + 1) < rs.length) := by omega
      have h2 : ¬ (k ≤ j ∧ j - k < (r :: rs).length) := by omega
      rw [dif_neg h1, dif_neg h2]
      split
      · rw [Vector.getElem_setIfInBounds]; simp [Nat.ne_of_gt h]
      · rfl
    · have h1 : ¬ (j + 1 ≤ j ∧ j - (j + 1) < rs.length) := by omega
      rw [dif_neg h1, dif_pos (by simp)]
      simp only [Nat.sub_self, List.getElem_cons_zero]
      split
      · rw [Vector.getElem_setIfInBounds]; simp
      · rfl
    · obtain ⟨m, rfl⟩ : ∃ m, j = k + 1 + m := ⟨j - (k + 1), by omega⟩
      have e1 : k + 1 + m - (k + 1) = m := by omega
      have e2 : k + 1 + m - k = m + 1 := by omega
      have hv : (if r.stb then v.setIfInBounds k r.data else v)[k + 1 + m] = v[k + 1 + m] := by
        split
        · rw [Vector.getElem_setIfInBounds]; simp [show k ≠ k + 1 + m by omega]
        · rfl
      simp only [e1, e2, List.getElem_cons_succ, List.length_cons, hv,
        show k + 1 ≤ k + 1 + m from by omega, show k ≤ k + 1 + m from by omega, true_and, Nat.add_lt_add_iff_right]

/-- All control buses of a cycle together: channel by channel (R200, R217). -/
theorem loadWords_all (rs : Vector (CcrReq c) c.nCh) (v : Vector (Word c.wCtrl) c.nCh) :
    loadWords 0 rs.toList v = Vector.zipWith (fun r v => if r.stb then r.data else v) rs v := by
  apply Vector.ext
  intro j hj
  rw [getElem_loadWords]
  simp [hj]

theorem exec_decodeCcr (b : Bridge c) (k : Nat) (hk : k < c.nCh) (r : CcrReq c) :
    exec (decodeCcr c k r) ⟨c, b⟩ =
      .next ⟨c, { b with ctrlWord := if r.stb then b.ctrlWord.setIfInBounds k r.data else b.ctrlWord }⟩ := by
  unfold decodeCcr
  cases hr : r.stb
  · simp [exec, execCnop, hk, State.become]
  · simp only [if_true, exec, execWrctrl, hk, dite_true, State.become, packCtrl_fields, Bridge.loadCtrl]
    congr 3
    apply Vector.ext
    intro j hj
    rw [Vector.getElem_set, Vector.getElem_setIfInBounds]

/-- The operations on the control buses of a cycle load the control words and do nothing else. -/
theorem runOps_channelOpsFrom (rs : List (CcrReq c)) (k : Nat) (h : k + rs.length ≤ c.nCh) (b : Bridge c) :
    runOps (channelOpsFrom c k rs) ⟨c, b⟩ = .next ⟨c, { b with ctrlWord := loadWords k rs b.ctrlWord }⟩ := by
  induction rs generalizing k b with
  | nil => rfl
  | cons r rs ih =>
    simp only [List.length_cons] at h
    rw [channelOpsFrom, runOps, exec_decodeCcr b k (by omega) r]
    exact ih (k + 1) (by omega) _

/-- The read data where the engine wrote the word read neither in the request cycle nor now (R86, R165, R166, R273). -/
theorem Bridge.iData_of_noEngine {c : Config} (b : Bridge c) (i : CycleIn c) (h : i.engine = []) (hc : b.rdContended = false) :
    b.iData i = if b.iStb i then b.readMux i.done else b.freeReadData := by simp [Bridge.iData, Bridge.responseOpen, h, hc]

/-- No engine write touches a status response (R189). -/
theorem Bridge.responseOpen_status {c : Config} (b : Bridge c) (i : CycleIn c) (h : b.rdStateSel = true)
    (h' : b.rdSel3 = true) : b.responseOpen i = false := by simp [Bridge.responseOpen, h, h']

/-- The read data of a cycle whose captured selects are those of a status read (R182, R189). -/
theorem Bridge.iData_status {c : Config} (b : Bridge c) (i : CycleIn c) (h : b.rdStateSel = true) (h' : b.rdSel3 = true) :
    b.iData i = if b.iStb i then b.readMux i.done else b.freeReadData := by
  simp [Bridge.iData, Bridge.responseOpen_status b i h h']

end Sys2Proof.Machine
end

