-- ==== Sys2Proof/Laws/PerInstr.lean ====
section
/-! SUPPORT. A family of facts about the operations as syntax, one lemma per constructor of Instr: the canonical request
of an operation carries a strobe exactly when the operation is no idle cycle (R120, R121, R124). -/

namespace Sys2Proof

/-- The strobe of a request, `o_stb` or `c_stb`. -/
def Request.strobe {c : Config} : Request c → Bool
  | .smb r => r.stb
  | .ccr _ r => r.stb

/-- NOP and CNOP, the cycles without a request. -/
def Instr.isIdle : Instr → Bool
  | .nop | .cnop _ => true
  | .rdcl _ | .rdch _ | .rdst _ | .rdstatus _ | .wrcl _ _ | .wrch _ _ | .wrst _ _ | .wrcfg _ | .wrctrl _ _ _ _ => false

namespace Laws.EncodeStrobe

/-- The canonical request of `i` is strobed unless `i` is an idle cycle, in every configuration. -/
def Statement (i : Instr) : Prop := ∀ c : Config, (encode c i).strobe = !i.isIdle

theorem nop : Statement .nop := fun _ => rfl
theorem rdcl (a : Nat) : Statement (.rdcl a) := fun _ => rfl
theorem rdch (a : Nat) : Statement (.rdch a) := fun _ => rfl
theorem rdst (a : Nat) : Statement (.rdst a) := fun _ => rfl
theorem rdstatus (low : Nat) : Statement (.rdstatus low) := fun _ => rfl
theorem wrcl (a d : Nat) : Statement (.wrcl a d) := fun _ => rfl
theorem wrch (a d : Nat) : Statement (.wrch a d) := fun _ => rfl
theorem wrst (a d : Nat) : Statement (.wrst a d) := fun _ => rfl
theorem wrcfg (b : Bool) : Statement (.wrcfg b) := fun _ => rfl
theorem cnop (ch : Nat) : Statement (.cnop ch) := fun _ => rfl
theorem wrctrl (ch profile : Nat) (enIir enOut : Bool) : Statement (.wrctrl ch profile enIir enOut) := fun _ => rfl

end Laws.EncodeStrobe

end Sys2Proof
end

