-- ==== Sys2Proof/Laws/Run.lean ====
section
/-! SUPPORT. Runs of several steps, put together from single ones. -/

namespace Sys2Proof.Machine

/-- A run whose first step answers `t` is a step shorter from `t`. -/
theorem run_of_next (M : Host.Core) (k : Nat) {s t : M.State} (h : M.step s = .next t) : M.run (k + 1) s = M.run k t := by
  rw [Host.Core.run, h]

/-- A run that answers a state has a first step that answers one. -/
theorem next_of_run (M : Host.Core) (k : Nat) {s u : M.State} (h : M.run (k + 1) s = .next u) :
    ∃ t, M.step s = .next t ∧ M.run k t = .next u := by
  rw [Host.Core.run] at h
  split at h
  · exact ⟨_, by assumption, h⟩
  · cases h
  · cases h

/-- No step reaches the state itself. -/
theorem reaches_zero (s : State) : Reaches 0 s s := rfl

/-- A step and then `k` more. -/
theorem reaches_succ {k : Nat} {s t u : State} (h : step s = .next t) (h' : Reaches k t u) : Reaches (k + 1) s u :=
  (run_of_next Sys2Proof.core k h).trans h'

/-- The first of `k + 1` steps. -/
theorem reaches_succ_first {k : Nat} {s u : State} (h : Reaches (k + 1) s u) :
    ∃ t, step s = .next t ∧ Reaches k t u := next_of_run Sys2Proof.core k h

/-- `j` steps and then `k` more. -/
theorem reaches_add {j k : Nat} {s t u : State} (h : Reaches j s t) (h' : Reaches k t u) : Reaches (j + k) s u := by
  induction j generalizing s with
  | zero =>
    cases h
    simpa using h'
  | succ j ih =>
    obtain ⟨v, hv, hj⟩ := reaches_succ_first h
    rw [Nat.add_right_comm]
    exact reaches_succ hv (ih hj)

end Sys2Proof.Machine
end

