-- ==== Sys2Proof/Laws/Schedule.lean ====
section
/-! SUPPORT. The schedules of update points with given gaps are the admissible ones: each has infinitely many update points, and
every schedule that does is the one of some gaps (R9, R187). -/

namespace Sys2Proof.Machine

/-- With `r` cycles before the next update point in cycle `t`, it falls in cycle `t + r`. -/
theorem gapSchedule_of_nextUpdatePoint (gap : Nat → Nat) (r : Nat) :
    ∀ t, (nextUpdatePoint gap t).2 = r → gapSchedule gap (t + r) = true := by
  induction r with
  | zero => intro t h; simp [gapSchedule, h]
  | succ r ih =>
    intro t h
    have h' : (nextUpdatePoint gap (t + 1)).2 = r := by
      rcases e : nextUpdatePoint gap t with ⟨n, m⟩
      obtain rfl : m = r + 1 := by simpa [e] using h
      simp [nextUpdatePoint, e]
    simpa [Nat.add_assoc, Nat.add_comm 1 r] using ih (t + 1) h'

/-- A schedule of gaps is admissible. -/
theorem gapSchedule_admissible (gap : Nat → Nat) : Admissible (gapSchedule gap) := fun t =>
  ⟨t + (nextUpdatePoint gap t).2, Nat.le_add_right _ _, gapSchedule_of_nextUpdatePoint gap _ t rfl⟩

/-- Every admissible schedule is one of gaps, so that leaving the gaps free leaves out no schedule. -/
theorem Admissible.exists_gap {σ : Nat → Bool} (h : Admissible σ) : ∃ gap, ∀ t, gapSchedule gap t = σ t := by
  classical
  -- the first update point at or after a cycle
  let next (t : Nat) : Nat := Nat.find (h t)
  have next_ge (t : Nat) : t ≤ next t := (Nat.find_spec (h t)).1
  have next_on (t : Nat) : σ (next t) = true := (Nat.find_spec (h t)).2
  have next_min {t u : Nat} (h1 : t ≤ u) (h2 : u < next t) : σ u = false := by
    simpa [h1] using Nat.find_min (h t) h2
  let point : Nat → Nat := fun n => Nat.rec (next 0) (fun _ p => next (p + 1)) n
  let gap : Nat → Nat := fun n => match n with
    | 0 => point 0
    | n + 1 => point (n + 1) - (point n + 1)
  have point_succ (n : Nat) : point (n + 1) = next (point n + 1) := rfl
  have key (t : Nat) : t + (nextUpdatePoint gap t).2 = point (nextUpdatePoint gap t).1 ∧
      ∀ u, t ≤ u → u < point (nextUpdatePoint gap t).1 → σ u = false := by
    induction t with
    | zero => exact ⟨Nat.zero_add _, fun u _ hu => next_min (Nat.zero_le u) hu⟩
    | succ t ih =>
      rcases e : nextUpdatePoint gap t with ⟨n, _ | r⟩ <;> simp only [nextUpdatePoint, e] at ih ⊢
      · have hp : point n = t := ih.1.symm
        have hle := next_ge (t + 1)
        have hn : point (n + 1) = next (t + 1) := by rw [point_succ, hp]
        refine ⟨?_, fun u h1 h2 => next_min h1 (hn ▸ h2)⟩
        show t + 1 + (point (n + 1) - (point n + 1)) = point (n + 1)
        omega
      · exact ⟨by omega, fun u h1 h2 => ih.2 u (by omega) h2⟩
  have point_on (n : Nat) : σ (point n) = true := by
    cases n with
    | zero => exact next_on 0
    | succ n => exact next_on _
  refine ⟨gap, fun t => ?_⟩
  obtain ⟨h1, h2⟩ := key t
  unfold gapSchedule
  rcases e : (nextUpdatePoint gap t).2 with _ | r <;> rw [e] at h1
  · have ht : point (nextUpdatePoint gap t).1 = t := h1.symm
    have := point_on (nextUpdatePoint gap t).1
    rw [ht] at this
    simp [this]
  · simp [h2 t le_rfl (by omega)]

variable {c : Config} (b : Bridge c)

/-- The update point of the cycle about to be performed is the first of the schedule ahead. -/
theorem Bridge.currentIn_cfgTick : b.currentIn.cfgTick = b.schedule 0 := by
  unfold Bridge.currentIn Bridge.schedule
  cases h : b.inputs <;> simp [CycleIn.pastEnd]

/-- Once the inputs of a cycle are taken, the schedule ahead is what followed it. -/
@[simp] theorem Bridge.takeInput_schedule (k : Nat) : b.takeInput.schedule k = b.schedule (k + 1) := by
  simp [Bridge.schedule, Bridge.takeInput, Nat.add_assoc, Nat.add_comm 1 k]

variable {b}

/-- The schedule ahead depends on the inputs to come and on the number of the cycle alone. -/
theorem Bridge.schedule_congr {b' : Bridge c} (h : b'.inputs = b.inputs) (ht : b'.time = b.time) (k : Nat) :
    b'.schedule k = b.schedule k := by
  simp [Bridge.schedule, h, ht]

end Sys2Proof.Machine
end

