-- ==== Sys2Proof/Tests/Slice0.lean ====
section
/-! SUPPORT. Tests, each on one small state, with expected results from spec/95_test_vectors.md (the vector is named); and
for every obligation with hypotheses a witness that meets them. -/

namespace Sys2Proof.Tests

open Sys2Proof Sys2Proof.Machine

/-! ## Helpers -/

/-- A field of the next state, or nothing if the step stops. -/
def seen {α : Type} (o : Host.Outcome State Fault Refusal) (f : State → α) : Option α :=
  match o with
  | .next t => some (f t)
  | .fault _ => none
  | .refused _ => none

/-- A memory-bus cycle of CFG-A: strobed, with the given address and data. -/
def cycA (address data : Nat) : CycleIn Config.cfgA :=
  CycleIn.quiet { stb := true, address := BitVec.ofNat _ address, data := BitVec.ofNat _ data }

/-- The same of CFG-B. -/
def cycB (address data : Nat) : CycleIn Config.cfgB :=
  CycleIn.quiet { stb := true, address := BitVec.ofNat _ address, data := BitVec.ofNat _ data }

/-- An idle cycle of CFG-A. -/
def idleA : CycleIn Config.cfgA := CycleIn.quiet (SmbReq.idle _)

/-- A control cycle of CFG-A: `c_stb = 1` on channel 0 alone, with the given `c_data`. -/
def ctlA (data : Nat) : CycleIn Config.cfgA :=
  { idleA with ccr := (Vector.replicate _ (CcrReq.idle _)).set 0 { stb := true, data := BitVec.ofNat _ data } }

/-- CFG-A after power-up with given memories, about to perform the given cycles. -/
def atA (coeff state : List (Nat × Nat)) (ins : List (CycleIn Config.cfgA)) : State where
  cfg := Config.cfgA
  br := { Bridge.powerUp Config.cfgA with
          coeffMem := Memory.ofCells 4 36 coeff, stateMem := Memory.ofCells 4 18 state, inputs := ins }

/-- CFG-B after power-up with given memories, about to perform the given cycles. -/
def atB (coeff state : List (Nat × Nat)) (ins : List (CycleIn Config.cfgB)) : State where
  cfg := Config.cfgB
  br := { Bridge.powerUp Config.cfgB with
          coeffMem := Memory.ofCells 4 36 coeff, stateMem := Memory.ofCells 5 25 state, inputs := ins }

/-- The coefficient word at `a`, as a number. -/
def coeffAt (a : Nat) (s : State) : Nat := (s.br.coeffMem.read a).toNat

/-- The state word at `a`, as a number. -/
def stateAt (a : Nat) (s : State) : Nat := (s.br.stateMem.read a).toNat

/-- `i_stb` and `i_data` of the cycle about to be performed. -/
def response (s : State) : Bool × Nat :=
  let o := s.br.outputs s.br.currentIn
  (o.iStb, o.iData.toNat)

/-- `coeff_adr`, `coeff_we`, `state_we` and `wr_cfg` of the cycle about to be performed. -/
def writePorts (s : State) : Nat × Nat × Bool × Bool :=
  let o := s.br.outputs s.br.currentIn
  (o.coeffAdr.toNat, o.coeffWe.toNat, o.stateWe, o.wrCfg)

/-! ## Static assertions (V42 to V46) -/

theorem test_v42_narrow_state_refused : Config.make { Params.cfgA with wState := 17 } = .error [.stateWidth] := by rfl
theorem test_v43_minimum_legal_accepted : Config.make Params.cfgA = .ok Config.cfgA := by rfl
theorem test_v44_wide_word_refused : Config.make { Params.cfgA with wWord := 19 } = .error [.narrowestWord] := by rfl
theorem test_v45_address_bus_refused : Config.make { Params.cfgA with saw := 5 } = .error [.addressBus] := by rfl
theorem test_v46_storage_width_refused : Config.make { Params.cfgA with wStore := 35 } = .error [.storageWidth] := by rfl
/-- The side conditions of R235 and of decisions D3, D4 and D6, one broken in each. -/
theorem test_side_conditions_refused :
    Config.make { Params.cfgA with wWord := 0 } = .error [.wordBound] ∧
    Config.make { Params.cfgA with statusDoneBit := 0 } = .error [.statusBits] ∧
    Config.make { Params.cfgA with cfgDataBit := 18 } = .error [.configBit] ∧
    Config.make { Params.cfgA with ctrlEnIirBit := 0 } = .error [.controlFields] ∧
    Config.make { Params.cfgA with wCoeff := 1, wWord := 1, wStore := 2, statusDoneBit := 0 } =
      .error [.halfWidthBound, .statusBits] := ⟨rfl, rfl, rfl, rfl, rfl⟩

/-! ## WellFormed: one ill-formed operation for each check -/

theorem test_wellFormed_address : wellFormed Config.cfgA (.rdcl 16) = false ∧ wellFormed Config.cfgA (.rdch 16) = false ∧
    wellFormed Config.cfgA (.rdst 16) = false ∧ wellFormed Config.cfgA (.rdstatus 16) = false := by decide
theorem test_wellFormed_write : wellFormed Config.cfgA (.wrcl 16 0) = false ∧ wellFormed Config.cfgA (.wrcl 0 262144) = false ∧
    wellFormed Config.cfgA (.wrch 16 0) = false ∧ wellFormed Config.cfgA (.wrch 0 262144) = false ∧
    wellFormed Config.cfgA (.wrst 16 0) = false ∧ wellFormed Config.cfgA (.wrst 0 262144) = false := by decide
theorem test_wellFormed_channel : wellFormed Config.cfgA (.cnop 8) = false ∧
    wellFormed Config.cfgA (.wrctrl 8 0 false false) = false ∧
    wellFormed Config.cfgA (.wrctrl 0 32 false false) = false := by decide
theorem test_canonical_alias : canonical Config.cfgB (.rdcl 16) = false ∧ canonical Config.cfgB (.rdch 16) = false ∧
    canonical Config.cfgB (.wrcl 16 0) = false ∧ canonical Config.cfgB (.wrch 16 0) = false ∧
    canonical Config.cfgB (.rdstatus 1) = false ∧ canonical Config.cfgB (.rdst 31) = true ∧
    canonical Config.cfgB (.rdst 32) = false ∧ canonical Config.cfgB (.wrst 32 0) = false := by decide

/-! ## Decoding: every row's word from its encoding in spec/30_encoding.md (V37 to V39, V31, V33) -/

theorem test_decode_reads : decodeTableWord 8 0b10000101 = some (.rdcl 5) ∧ decodeTableWord 8 0b10010101 = some (.rdch 5) ∧
    decodeTableWord 8 0b10100101 = some (.rdst 5) ∧ decodeTableWord 8 0b10110101 = some (.rdstatus 5) := by decide
theorem test_decode_writes : decodeTableWord 8 0b11000101 = some (.wrcl 5 0) ∧
    decodeTableWord 8 0b11010101 = some (.wrch 5 0) ∧ decodeTableWord 8 0b11100101 = some (.wrst 5 0) ∧
    decodeTableWord 8 0b11110101 = some (.wrcfg false) := by decide
theorem test_decode_nop : decodeTableWord 8 0b01000101 = some .nop ∧ decodeTableWord 16 0 = none := by decide
theorem test_decode_control : decodeCcr Config.cfgA 3 (CcrReq.ofWord Config.cfgA 0b10100111) = .wrctrl 3 9 true true ∧
    decodeCcr Config.cfgA 3 (CcrReq.ofWord Config.cfgA 0b00100111) = .cnop 3 ∧
    decode Config.cfgA (.ccr 8 (CcrReq.idle Config.cfgA)) = .error (.noSuchChannel 8) := by decide
theorem test_decode_v38 : decodeSmb Config.cfgB { stb := true, address := 0b11010001, data := 0x15555 } = .wrst 17 0x15555 := by
  decide
theorem test_encode_addresses :
    encode Config.cfgA (.wrch 5 0x2ABCD) = .smb { stb := true, address := 0x55, data := 0x2ABCD } ∧
    encode Config.cfgA (.wrcfg true) = .smb { stb := true, address := 0x70, data := 1 } ∧
    encode Config.cfgB (.rdst 17) = .smb { stb := true, address := 0x51, data := 0 } ∧
    encode Config.cfgA (.wrctrl 0 31 false true) = .ccr 0 { stb := true, data := 0x7D } := by decide

/-! ## One step of each operation -/

/-- V9. -/
theorem test_nop : seen (step (atA [(5, 7)] [] [CycleIn.quiet { stb := false, address := 0x45, data := 0x3FFFF }]))
    (fun t => (coeffAt 5 t, t.br.rdPending)) = some (7, false) := by rfl
/-- V2. -/
theorem test_wrcl : seen (step (atA [(5, 0xAAF340000)] [] [cycA 0x45 0x3FFFF])) (coeffAt 5) = some 0xAAF37FFFF := by rfl
/-- V8: `low = 19` names word 3 in CFG-B. -/
theorem test_wrcl_alias : seen (step (atB [] [] [cycB 0x93 7])) (coeffAt 3) = some 7 := by rfl
/-- V3. -/
theorem test_wrch : seen (step (atA [(5, 0x00003FFFF)] [] [cycA 0x55 0x2ABCD])) (coeffAt 5) = some 0xAAF37FFFF := by rfl
/-- V3: the write ports in the request cycle. -/
theorem test_wrch_ports : writePorts (atA [] [] [cycA 0x55 0x2ABCD]) = (5, 2, false, false) := by rfl
/-- V6. -/
theorem test_wrst : seen (step (atA [(9, 3)] [] [cycA 0x69 0x15555])) (fun t => (stateAt 9 t, coeffAt 9 t)) =
    some (0x15555, 3) := by rfl
/-- V11. -/
theorem test_rdcl : seen (step (atA [(5, 0xAAF37FFFF)] [] [cycA 0x05 0, idleA])) response = some (true, 0x3FFFF) := by rfl
/-- V12. -/
theorem test_rdch : seen (step (atA [(5, 0xAAF37FFFF)] [] [cycA 0x15 0, idleA])) response = some (true, 0x2ABCD) := by rfl
/-- V17: the write in the response cycle does not change the response. -/
theorem test_rdcl_under_write : seen (step (atA [(5, 0x3FFFF)] [] [cycA 0x05 0, cycA 0x45 0])) response =
    some (true, 0x3FFFF) := by rfl
/-- V15: the hidden part is not returned. -/
theorem test_rdst : seen (step (atB [] [(17, 0xAAAAFF)] [cycB 0x51 0, CycleIn.quiet (SmbReq.idle _)])) response =
    some (true, 0x15555) := by rfl
/-- V21: `done` is that of the response cycle. -/
theorem test_rdstatus : seen (step (atA [] [] [cycA 0x30 0, { idleA with done := true }])) response = some (true, 2) := by rfl
/-- V24. -/
theorem test_wrcfg : seen (step (atA [] [] [{ cycA 0x70 1 with cfgTick := true }]))
    (fun t => (t.br.config, t.br.cfgPendValid)) = some (true, false) := by rfl
/-- V27, V28: the upper data bits and the low field are ignored. -/
theorem test_wrcfg_ignored_bits : seen (step (atA [] [(15, 0xF0F)] [{ cycA 0x7F 0x3FFFE with cfgTick := true }]))
    (fun t => (t.br.config, stateAt 15 t)) = some (false, 0xF0F) := by rfl
/-- V31. -/
theorem test_wrctrl : seen (step (atA [] [] [ctlA 0x27])) (fun t => (t.br.ctrlWord.toList.map (·.toNat))) =
    some [0x27, 0, 0, 0, 0, 0, 0, 0] := by rfl
/-- V34: an over-wide profile loses its high bit. -/
theorem test_wrctrl_cut : seen (exec (.wrctrl 0 33 false false) State.reset) (fun t => (t.br.ctrlWord.toList.map (·.toNat))) =
    some [4, 0, 0, 0, 0, 0, 0, 0] := by rfl
/-- V33, and the refusal of a channel that does not exist. -/
theorem test_cnop : seen (exec (.cnop 7) State.reset) (fun t => t.br.ctrlWord.toList.map (·.toNat)) =
    some [0, 0, 0, 0, 0, 0, 0, 0] ∧ exec (.cnop 8) State.reset = .refused (.noSuchChannel 8) := ⟨rfl, rfl⟩
/-- R273: a read is noted as contended exactly when the engine may write its word in the cycle of the request (word 0 is 16 cut). -/
theorem test_contended : seen (step (atA [] [] [{ cycA 0x00 0 with engine := [.coeff 16] }])) (·.br.rdContended) = some true ∧
    seen (step (atA [] [] [{ cycA 0x20 0 with engine := [.coeff 16] }])) (·.br.rdContended) = some false := ⟨rfl, rfl⟩
/-- V41: a reset in the response cycle loses the response and keeps the memory. -/
theorem test_reset : seen (step (atA [(5, 9)] [] [{ idleA with rst := true }])) (fun t => (t.br.rdPending, coeffAt 5 t)) =
    some (false, 9) := by rfl
/-- An update point in every cycle (the schedule R187 names), and one in every second cycle. -/
theorem test_gapSchedule : (List.range 4).map (gapSchedule fun _ => 0) = [true, true, true, true] ∧
    (List.range 4).map (gapSchedule fun _ => 1) = [false, true, false, true] := by decide
/-- The fetch helper places the request that the next step runs. -/
theorem test_withFetchWord : seen (step (State.reset.withFetchWord 8 0b10010101)) (fun t => (t.br.rdPending, t.br.rdSel3)) =
    some (true, true) := by rfl

/-! ## Witnesses: for every obligation with hypotheses, concrete values that meet them all, one for each clause -/

/-- The cycle with a configuration update point at its end. -/
def tickA (i : CycleIn Config.cfgA) : CycleIn Config.cfgA := { i with cfgTick := true }

/-- An accepted set, and refused ones that between them name every assertion (the others in the tests above). -/
theorem witness_ConfigurationAcceptedIffLegal : Config.make Params.cfgA = .ok Config.cfgA ∧
    Config.make { Params.cfgA with wState := 17, wStore := 35, wWord := 19, aw := 8 } =
      .error [.stateWidth, .storageWidth, .narrowestWord, .addressBus] ∧
    Config.make { Params.cfgA with wCoeff := 1, wStore := 2, wWord := 0, ctrlEnIirBit := 2 } =
      .error [.halfWidthBound, .wordBound, .statusBits, .controlFields] ∧
    Config.make { Params.cfgA with cfgDataBit := 18 } = .error [.configBit] := ⟨rfl, rfl, rfl, rfl⟩
theorem witness_DecodeOfEncode : wellFormed Config.cfgA (.rdcl 15) = true ∧ wellFormed Config.cfgA (.wrst 15 262143) = true ∧
    wellFormed Config.cfgA (.wrctrl 7 31 true true) = true := by decide
theorem witness_EncodeOfDecodeWithoutIgnoredBits :
    (∃ r : SmbReq Config.cfgA, r.stb = true ∧ r.we = true ∧ (r.stateSel = false ∨ r.sel3 = false)) ∧
    ∃ r : CcrReq Config.cfgA, r.stb = true :=
  ⟨⟨{ stb := true, address := 0x6F, data := 0x3FFFF }, by decide⟩, { stb := true, data := 0x7F }, rfl⟩
theorem witness_EveryRequestDecodes : 7 < Config.cfgA.nCh ∧ 0 < Config.cfgA.nCh := by decide
/-- Every value of the select bits occurs, with the low field at its ends. -/
theorem witness_SelectBitsChooseOperation : ∀ we st s3 : Bool, ∃ r : SmbReq Config.cfgA,
    r.stb = true ∧ r.we = we ∧ r.stateSel = st ∧ r.sel3 = s3 ∧ r.low = 15 := fun we st s3 =>
  ⟨{ stb := true, address := BitVec.ofBool we ++ BitVec.ofBool st ++ BitVec.ofBool s3 ++ 0b1111#4, data := 0 },
    by revert we st s3; decide⟩
theorem witness_UnusedBitsIgnored :
    let r : SmbReq Config.cfgA := { stb := true, address := 0x0F, data := 0 }
    let p : SmbReq Config.cfgA := { stb := true, address := 0x70, data := 1 }
    let q : SmbReq Config.cfgA := { stb := true, address := 0x7F, data := 0x3FFFF }
    (SmbReq.idle Config.cfgA).stb = false ∧ r.we = false ∧ p.we = true ∧ p.stateSel = true ∧ p.sel3 = true ∧
      q.we = true ∧ q.stateSel = true ∧ q.sel3 = true ∧
      configBit Config.cfgA p.data = configBit Config.cfgA q.data := by decide
theorem witness_AddressesAlias : 31 % 2 ^ Config.cfgB.caw = 15 % 2 ^ Config.cfgB.caw ∧
    32 % 2 ^ Config.cfgB.saw = 0 % 2 ^ Config.cfgB.saw := by decide
theorem witness_RdclCompletesAndResponds : idleA.Plain ∧ idleA.rst = false := ⟨⟨rfl, rfl⟩, rfl⟩
theorem witness_RdchCompletesAndResponds : idleA.Plain ∧ idleA.rst = false := ⟨⟨rfl, rfl⟩, rfl⟩
theorem witness_RdstCompletesAndResponds : idleA.Plain ∧ idleA.rst = false := ⟨⟨rfl, rfl⟩, rfl⟩
theorem witness_RdstatusCompletes : ({ idleA with done := true } : CycleIn Config.cfgA).rst = false := rfl
theorem witness_CnopCompletes : 7 < State.reset.cfg.nCh := by decide
theorem witness_WrctrlCompletes : 7 < State.reset.cfg.nCh ∧ 0 < State.reset.cfg.nCh := by decide
theorem witness_AbsentChannelRefused : State.reset.cfg.nCh ≤ 8 := by decide
theorem witness_StepRunsDecodedOperations : ∃ t u : State, (atA [] [] [ctlA 0x27]).br.currentIn.rst = false ∧
    exec (decodeSmb Config.cfgA (ctlA 0x27).smb) (atA [] [] [ctlA 0x27]).openCycle = .next t ∧
    runOps (channelOpsFrom Config.cfgA 0 (ctlA 0x27).ccr.toList) t = .next u := ⟨_, _, rfl, rfl, rfl⟩
theorem witness_NothingEverStops : wellFormed State.reset.cfg (.wrctrl 7 31 true true) = true := by decide
theorem witness_StepIsTheListing : (atA [] [] [cycA 0x69 1]).br.currentIn.rst = false := rfl
theorem witness_BusesCommute : 7 < State.reset.cfg.nCh ∧ 0 < State.reset.cfg.nCh ∧ 7 ≠ 0 := by decide
theorem witness_StepKeepsMemoriesCanonical : ∃ t, (atA [(0, 7), (15, 1)] [(15, 2)] [cycA 0x45 0]).Inv ∧
    step (atA [(0, 7), (15, 1)] [(15, 2)] [cycA 0x45 0]) = .next t := ⟨_, ⟨by decide, by decide⟩, rfl⟩
theorem witness_CanonicalMemoriesEqualByReads : let m : Memory 18 := [(0, 1), (15, 2)]
    m.wf 16 ∧ ∀ a, m.read a = m.read a := ⟨by decide, fun _ => rfl⟩
theorem witness_StepKeepsConfiguration : ∃ t, step (atA [] [] [cycA 0x45 1]) = .next t := ⟨_, rfl⟩
theorem witness_MemoriesChangeOnlyByWrites :
    let i := (atA [] [] [cycA 0x4F 1]).br.currentIn
    let j := (atA [] [] [cycA 0x6F 1]).br.currentIn
    i.Plain ∧ j.Plain ∧ i.coeffWe ≠ 0 ∧ coeffAdr Config.cfgA i.smb.low = 15 ∧ i.stateWe = false ∧ j.coeffWe = 0 ∧
      j.stateWe = true ∧ stateAdr Config.cfgA j.smb.low = 15 :=
  ⟨⟨rfl, rfl⟩, ⟨rfl, rfl⟩, by decide, rfl, rfl, rfl, rfl, rfl⟩
/-- Three pairs, the last of which names word 0 again (16 cut to 4 bits); word 15 is listed once and word 1 not at all. -/
theorem witness_PowerUpState : let p : Params := { Params.cfgA with stateMemInit := [(0, 9), (15, 7), (16, 8)] }
    (∃ c, Config.make p = .ok c ∧ c.toParams = p) ∧ p.stateMemInit = [(0, 9), (15, 7)] ++ (16, 8) :: [] ∧
      p.stateMemInit = [(0, 9)] ++ (15, 7) :: [(16, 8)] ∧ (∀ q ∈ [(16, 8)], q.1 % 2 ^ p.saw ≠ 15 % 2 ^ p.saw) ∧
      (∀ q ∈ p.stateMemInit, q.1 % 2 ^ p.saw ≠ 1) ∧ 7 < p.nCh :=
  ⟨⟨_, rfl, rfl⟩, rfl, rfl, by decide, by decide, by decide⟩
theorem witness_OutputsAfterReset : idleA.smb.stb = false ∧ ∀ (k : Nat) (hk : k < Config.cfgA.nCh), idleA.ccr[k].stb = false :=
  ⟨rfl, fun k hk => by simp [idleA, CycleIn.quiet, CcrReq.idle]⟩
/-- The engine names word 0 (16 cut to 4 bits) of each memory, and not word 15. -/
theorem witness_ResetWins :
    let s := atA [(5, 1)] [] [{ idleA with rst := true, engine := [.coeff 16, .state 16] }]
    s.br.currentIn.rst = true ∧
      (∀ a, EngineWrite.coeff a ∈ s.br.currentIn.engine → a % 2 ^ s.cfg.caw ≠ 15) ∧
      (∀ a, EngineWrite.state a ∈ s.br.currentIn.engine → a % 2 ^ s.cfg.saw ≠ 15) :=
  ⟨rfl, by simp [atA, Bridge.currentIn, Config.cfgA, Params.cfgA], by simp [atA, Bridge.currentIn, Config.cfgA, Params.cfgA]⟩
theorem witness_HalfWriteEnablesExclusive :
    let s := atA [] [] [cycA 0x4F 1]
    s.br.currentIn.Plain ∧ (s.br.outputs s.br.currentIn).coeffWe.getLsbD 0 = true ∧
      ((atA [] [] [cycA 0x5F 1]).br.outputs (cycA 0x5F 1)).coeffWe.getLsbD 1 = true := ⟨⟨rfl, rfl⟩, rfl, rfl⟩
/-- Each of the four clauses, at the last address. -/
theorem witness_ReadDataMultiplexer : ∀ st s3 : Bool,
    let b := (Bridge.powerUp Config.cfgA).captureRead st s3 15
    idleA.Plain ∧ b.rdContended = false ∧ b.rdPending = true ∧ b.rdStateSel = st ∧ b.rdSel3 = s3 ∧ b.rdAdr = 15 :=
  fun _ _ => ⟨⟨rfl, rfl⟩, rfl, rfl, rfl, rfl, rfl⟩
theorem witness_ResponsesHideHiddenParts :
    let b := ((atB [] [(17, 0xAAAAFF)] []).br).captureRead true true 17
    let b' := ((atB [] [(17, 0xAAAA80)] []).br).captureRead true true 17
    SameCapture b b' ∧ b'.config = b.config ∧ SameCoeff b b' ∧ b.rdStateSel = true ∧ b.rdSel3 = true ∧
      ∀ x, exposedPart Config.cfgB (b'.stateWord x) = exposedPart Config.cfgB (b.stateWord x) :=
  ⟨⟨rfl, rfl, rfl, rfl⟩, rfl, fun _ => rfl, rfl, rfl, by decide⟩
theorem witness_OneResponsePerRead : (atA [] [] [cycA 0x1F 0]).br.currentIn.rst = false ∧ idleA.rst = false := ⟨rfl, rfl⟩
theorem witness_ReadCapturesRequest :
    let i := (atA [] [] [cycA 0x1F 0]).br.currentIn
    let j := (atA [] [] [cycA 0x4F 0]).br.currentIn
    i.rst = false ∧ i.smb.stb = true ∧ i.smb.we = false ∧ j.rst = false ∧ j.smb.we = true := ⟨rfl, rfl, rfl, rfl, rfl⟩
theorem witness_StatusResponseIsLive :
    let i := (atA [] [] [cycA 0x30 0]).br.currentIn
    i.rst = false ∧ i.smb.stb = true ∧ i.smb.we = false ∧ i.smb.stateSel = true ∧ i.smb.sel3 = true ∧ idleA.rst = false :=
  ⟨rfl, rfl, rfl, rfl, rfl, rfl⟩
theorem witness_ReadsPipeline :
    (atA [(15, 3)] [] [cycA 0x00 0, cycA 0x1F 0, idleA]).br.inputs = cycA 0x00 0 :: cycA 0x1F 0 :: idleA :: [] ∧
    (cycA 0x00 0).Plain ∧ (cycA 0x1F 0).Plain ∧ idleA.Plain ∧ (cycA 0x00 0).ReadsHalf false 0 ∧
    (cycA 0x1F 0).ReadsHalf true 15 :=
  ⟨rfl, ⟨rfl, rfl⟩, ⟨rfl, rfl⟩, ⟨rfl, rfl⟩, ⟨rfl, rfl, rfl, rfl, rfl⟩, ⟨rfl, rfl, rfl, rfl, rfl⟩⟩
theorem witness_ReadBeforeWriteReturnsOld :
    (atA [(15, 3)] [] [cycA 0x0F 0, cycA 0x4F 9]).br.inputs = cycA 0x0F 0 :: cycA 0x4F 9 :: [] ∧
    (cycA 0x0F 0).Plain ∧ (cycA 0x4F 9).Plain ∧ (cycA 0x0F 0).ReadsHalf false 15 ∧ (cycA 0x4F 9).WritesHalf false 15 :=
  ⟨rfl, ⟨rfl, rfl⟩, ⟨rfl, rfl⟩, ⟨rfl, rfl, rfl, rfl, rfl⟩, ⟨rfl, rfl, rfl, rfl, rfl⟩⟩
theorem witness_ReadBeforeWriteReturnsOld_state :
    (atA [] [(15, 3)] [cycA 0x2F 0, cycA 0x6F 9]).br.inputs = cycA 0x2F 0 :: cycA 0x6F 9 :: [] ∧
    (cycA 0x2F 0).Plain ∧ (cycA 0x6F 9).Plain ∧ (cycA 0x2F 0).ReadsExposed 15 ∧ (cycA 0x6F 9).WritesExposed 15 :=
  ⟨rfl, ⟨rfl, rfl⟩, ⟨rfl, rfl⟩, ⟨rfl, rfl, rfl, rfl, rfl⟩, ⟨rfl, rfl, rfl, rfl, rfl⟩⟩
/-- Between the write and the read stands a write to the other half of the same word. -/
theorem witness_CoefficientReadReturnsLastWrite :
    (atA [] [] [cycA 0x4F 9, cycA 0x5F 8, cycA 0x0F 0, idleA]).br.inputs =
      cycA 0x4F 9 :: ([cycA 0x5F 8] ++ cycA 0x0F 0 :: idleA :: []) ∧
    (cycA 0x4F 9).Plain ∧ (∀ i ∈ [cycA 0x5F 8], i.Plain) ∧ (cycA 0x0F 0).Plain ∧ idleA.Plain ∧
    (cycA 0x4F 9).WritesHalf false 15 ∧ (∀ i ∈ [cycA 0x5F 8], ¬ i.WritesHalf false 15) ∧
    (cycA 0x0F 0).ReadsHalf false 15 := by
  refine ⟨rfl, ⟨rfl, rfl⟩, ?_, ⟨rfl, rfl⟩, ⟨rfl, rfl⟩, ⟨rfl, rfl, rfl, rfl, rfl⟩, ?_, ⟨rfl, rfl, rfl, rfl, rfl⟩⟩
  · rintro i (_ | ⟨_, ⟨⟩⟩); exact ⟨rfl, rfl⟩
  · rintro i (_ | ⟨_, ⟨⟩⟩) ⟨_, _, _, h, _⟩; exact absurd h (by decide)
/-- Between the write and the read stands a write to the coefficient word of the same number. -/
theorem witness_StateReadReturnsLastWrite :
    (atA [] [] [cycA 0x6F 9, cycA 0x4F 8, cycA 0x2F 0, idleA]).br.inputs =
      cycA 0x6F 9 :: ([cycA 0x4F 8] ++ cycA 0x2F 0 :: idleA :: []) ∧
    (cycA 0x6F 9).Plain ∧ (∀ i ∈ [cycA 0x4F 8], i.Plain) ∧ (cycA 0x2F 0).Plain ∧ idleA.Plain ∧
    (cycA 0x6F 9).WritesExposed 15 ∧ (∀ i ∈ [cycA 0x4F 8], ¬ i.WritesExposed 15) ∧ (cycA 0x2F 0).ReadsExposed 15 := by
  refine ⟨rfl, ⟨rfl, rfl⟩, ?_, ⟨rfl, rfl⟩, ⟨rfl, rfl⟩, ⟨rfl, rfl, rfl, rfl, rfl⟩, ?_, ⟨rfl, rfl, rfl, rfl, rfl⟩⟩
  · rintro i (_ | ⟨_, ⟨⟩⟩); exact ⟨rfl, rfl⟩
  · rintro i (_ | ⟨_, ⟨⟩⟩) ⟨_, _, h, _, _⟩; exact absurd h (by decide)
/-- The engine may write word 0 (16 cut to 4 bits) of each memory past the listed inputs, and not word 15. -/
theorem witness_IdleAfterLastInput :
    let b := { (atA [(5, 1)] [] []).br with idleEngine := [.coeff 16, .state 16] }
    b.inputs = [] ∧ (∀ a, EngineWrite.coeff a ∈ b.idleEngine → a % 2 ^ Config.cfgA.caw ≠ (15 : Word Config.cfgA.caw).toNat) ∧
      ∀ a, EngineWrite.state a ∈ b.idleEngine → a % 2 ^ Config.cfgA.saw ≠ (15 : Word Config.cfgA.saw).toNat :=
  ⟨rfl, by simp [Config.cfgA, Params.cfgA], by simp [Config.cfgA, Params.cfgA]⟩
/-- Both ways in which `config` changes: from this cycle's WRCFG, and from the hand-off buffer. -/
theorem witness_ConfigChangesOnlyAtUpdatePoint :
    let s := atA [] [] [tickA (cycA 0x70 1)]
    let r : State := { cfg := Config.cfgA, br := (atA [] [] [tickA idleA]).br.handOff true }
    s.br.currentIn.rst = false ∧ seen (step s) (·.br.config) = some (!s.br.config) ∧
      r.br.currentIn.rst = false ∧ seen (step r) (·.br.config) = some (!r.br.config) := ⟨rfl, rfl, rfl, rfl⟩
theorem witness_CoincidentConfigWriteTakenDirectly :
    let i := (atA [] [] [tickA (cycA 0x70 1)]).br.currentIn
    let j := (atA [] [] [tickA idleA]).br.currentIn
    i.rst = false ∧ i.cfgTick = true ∧ i.wrCfg = true ∧ j.rst = false ∧ j.cfgTick = true ∧ j.wrCfg = false ∧
      (atA [] [] [tickA idleA]).br.cfgPendValid = false := ⟨rfl, rfl, rfl, rfl, rfl, rfl, rfl⟩
theorem witness_ConfigWriteLandsAtUpdatePoint :
    (atA [] [] [cycA 0x70 1, idleA, tickA idleA]).br.inputs = cycA 0x70 1 :: ([idleA] ++ tickA idleA :: []) ∧
    (cycA 0x70 1).rst = false ∧ (∀ i ∈ [idleA], i.rst = false) ∧ (tickA idleA).rst = false ∧
    (cycA 0x70 1).wrCfg = true ∧ (cycA 0x70 1).cfgTick = false ∧ (∀ i ∈ [idleA], i.wrCfg = false ∧ i.cfgTick = false) ∧
    (tickA idleA).wrCfg = false ∧ (tickA idleA).cfgTick = true :=
  ⟨rfl, rfl, by simp [idleA, CycleIn.quiet], rfl, rfl, rfl, by simp only [List.mem_singleton, forall_eq]; exact ⟨rfl, rfl⟩, rfl, rfl⟩
/-- The clauses on a write in the cycle of an update point (V24), on the steps' schedule, and on a write that lands some time. -/
theorem witness_ConfigWriteLandsAtUpdatePoint_others :
    (atA [] [] [tickA (cycA 0x70 1)]).br.inputs = tickA (cycA 0x70 1) :: [] ∧ (tickA (cycA 0x70 1)).rst = false ∧
    (tickA (cycA 0x70 1)).wrCfg = true ∧ (tickA (cycA 0x70 1)).cfgTick = true ∧
    (∃ t, Reaches 1 (atA [] [] [idleA]) t) ∧
    (atA [] [] [cycA 0x70 1, idleA]).br.inputs = cycA 0x70 1 :: [idleA] ∧ (cycA 0x70 1).rst = false ∧
    (cycA 0x70 1).wrCfg = true ∧ (∀ i ∈ [idleA], i.rst = false ∧ i.wrCfg = false) :=
  ⟨rfl, rfl, rfl, rfl, ⟨_, rfl⟩, rfl, rfl, rfl, by simp only [List.mem_singleton, forall_eq]; exact ⟨rfl, rfl⟩⟩
/-- Vector V26 with the last WRCFG in the cycle of the update point. -/
theorem witness_LastConfigWriteWins :
    (atA [] [] [cycA 0x70 0, tickA (cycA 0x70 1)]).br.inputs = [cycA 0x70 0] ++ tickA (cycA 0x70 1) :: [] ∧
    (∀ i ∈ [cycA 0x70 0], i.rst = false ∧ i.cfgTick = false) ∧ (tickA (cycA 0x70 1)).rst = false ∧
    (tickA (cycA 0x70 1)).cfgTick = true :=
  ⟨rfl, by simp only [List.mem_singleton, forall_eq]; exact ⟨rfl, rfl⟩, rfl, rfl⟩
theorem witness_ControlStrobeInRequestCycle : 0 < Config.cfgA.nCh ∧ 7 < Config.cfgA.nCh := by decide
theorem witness_ControlWordsLoad : (atA [] [] [ctlA 0x27]).br.currentIn.rst = false ∧ 0 < Config.cfgA.nCh ∧
    7 < Config.cfgA.nCh := by decide
theorem witness_IdleChannelKeepsItsWord : (atA [] [] [ctlA 0x27]).br.currentIn.rst = false ∧
    (∃ hk : 7 < Config.cfgA.nCh, (atA [] [] [ctlA 0x27]).br.currentIn.ccr[7].stb = false) := ⟨rfl, by decide, rfl⟩
/-- Two bridges that differ in a control word and in the control requests of the cycle. -/
theorem witness_ControlDoesNotAffectMemoryBus :
    let b := (atA [] [] [cycA 0x05 0]).br
    let i' := { cycA 0x05 0 with ccr := (ctlA 0x27).ccr }
    let b' := { b with ctrlWord := Vector.replicate _ 1, inputs := [i'] }
    SameMemoryBus b b' ∧ b.currentIn = cycA 0x05 0 ∧ b'.currentIn = i' ∧ i'.smb = (cycA 0x05 0).smb ∧
      i'.done = (cycA 0x05 0).done ∧ i'.cfgTick = (cycA 0x05 0).cfgTick ∧ i'.rst = (cycA 0x05 0).rst ∧
      i'.engine = (cycA 0x05 0).engine :=
  ⟨⟨rfl, ⟨rfl, rfl, rfl, rfl⟩, ⟨rfl, rfl, rfl⟩, rfl, rfl, rfl⟩, rfl, rfl, rfl, rfl, rfl, rfl, rfl⟩
/-- The engine names word 0 (16 cut to 4 bits) of each memory, and not word 15. -/
theorem witness_EngineWritesOnlyWhatItNames :
    (∀ a, EngineWrite.coeff a ∈ [EngineWrite.coeff 16, .state 16] → a % 2 ^ Config.cfgA.caw ≠ (15 : Word Config.cfgA.caw).toNat) ∧
    ∀ a, EngineWrite.state a ∈ [EngineWrite.coeff 16, .state 16] → a % 2 ^ Config.cfgA.saw ≠ (15 : Word Config.cfgA.saw).toNat := by
  constructor <;> simp [Config.cfgA, Params.cfgA]

end Sys2Proof.Tests
end

section
/-! The busy output: what it answers in a cycle, and that the record of a cycle's outputs carries that answer. -/

namespace Sys2Proof.Machine

@[simp] theorem Bridge.oBusy_eq_false {c : Config} (b : Bridge c) (i : CycleIn c) : b.oBusy i = false := rfl

@[simp] theorem Bridge.outputs_oBusy {c : Config} (b : Bridge c) (i : CycleIn c) :
    (b.outputs i).oBusy = b.oBusy i := rfl

/-- Settles O36: the flag is hardwired to 0 (R22) and reads neither the registers nor the inputs, `rst` among them; the
output record copies it. -/
theorem busyAlwaysZero : Obligations.BusyAlwaysZero := by
  intro c b i
  have hBusy : b.oBusy i = false := b.oBusy_eq_false i
  exact ⟨hBusy, (b.outputs_oBusy i).trans hBusy⟩

end Sys2Proof.Machine
end

section
/-! The coefficient half-write-enables of a cycle (R141, R146), and that a cycle without reset or engine write changes the
coefficient memory exactly as its port signals say. -/

namespace Sys2Proof.Machine

variable {c : Config}

/-! The enables as signals -/

@[simp] theorem Bridge.outputs_coeffWe (b : Bridge c) (i : CycleIn c) : (b.outputs i).coeffWe = i.coeffWe := rfl

/-- The enables by operation: WRCH drives bit 1, WRCL bit 0, and every other cycle neither. -/
theorem CycleIn.coeffWe_eq (i : CycleIn c) :
    i.coeffWe = if i.wr && !i.smb.stateSel then (if i.smb.sel3 then 0b10#2 else 0b01#2) else 0#2 := by
  unfold CycleIn.coeffWe
  cases i.wr && !i.smb.stateSel <;> cases i.smb.sel3 <;> rfl

/-- R146, from the one fact that `sel3` picks the half: bit 0 is driven only under `sel3 = 0`, bit 1 only under `sel3 = 1`. -/
theorem CycleIn.getLsbD_coeffWe (i : CycleIn c) :
    (i.coeffWe.getLsbD 0 = true → i.smb.sel3 = false) ∧ (i.coeffWe.getLsbD 1 = true → i.smb.sel3 = true) := by
  rw [i.coeffWe_eq]
  cases i.wr && !i.smb.stateSel <;> cases i.smb.sel3 <;> decide

theorem CycleIn.coeffWe_half_disabled (i : CycleIn c) : i.coeffWe.getLsbD 0 = false ∨ i.coeffWe.getLsbD 1 = false := by
  obtain ⟨hLow, hHigh⟩ := i.getLsbD_coeffWe
  cases hSel : i.smb.sel3 with
  | false => exact .inr (by simpa [hSel] using hHigh)
  | true => exact .inl (by simpa [hSel] using hLow)

theorem CycleIn.coeffWe_ne_both (i : CycleIn c) : i.coeffWe ≠ 0b11#2 := by
  intro hBoth
  have hOff := i.coeffWe_half_disabled
  rw [hBoth] at hOff
  exact absurd hOff (by decide)

/-! A half-granular write -/

theorem mergeHalves_zero {w : Nat} (old new : Word (w + w)) : mergeHalves old new 0#2 = old :=
  highHalf_append_lowHalf old

/-- With both enables 0 a write leaves every word (R68). -/
theorem Bridge.coeffWrite_zero_sameCoeff (b : Bridge c) (a : Word c.caw) (v : Word (c.wCoeff + c.wCoeff)) :
    SameCoeff b (b.coeffWrite a v 0#2) := by
  intro x
  rw [b.coeffWrite_coeffWord, mergeHalves_zero]
  split_ifs with hx
  · rw [hx]
  · rfl

/-- A write with one of its enables 0 leaves that half of every word (R68). -/
theorem Bridge.coeffWrite_keeps_half (b : Bridge c) (a x : Word c.caw) (v : Word (c.wCoeff + c.wCoeff)) {en : Word 2}
    (h : en.getLsbD 0 = false ∨ en.getLsbD 1 = false) :
    lowHalf ((b.coeffWrite a v en).coeffWord x) = lowHalf (b.coeffWord x) ∨
      highHalf ((b.coeffWrite a v en).coeffWord x) = highHalf (b.coeffWord x) := by
  rw [b.coeffWrite_coeffWord]
  split_ifs with hx
  · subst hx
    rcases h with hLow | hHigh
    · exact .inl (by rw [lowHalf_mergeHalves, hLow]; rfl)
    · exact .inr (by rw [highHalf_mergeHalves, hHigh]; rfl)
  · exact .inl rfl

/-! The coefficient port of a cycle -/

/-- The coefficient write that a cycle's port signals ask for (R68, R141); with both enables 0 it is none. -/
def Bridge.coeffPortWrite (b : Bridge c) (i : CycleIn c) : Bridge c :=
  b.coeffWrite (coeffAdr c i.smb.low) (replicateData i.smb.data) i.coeffWe

theorem Bridge.coeffPortWrite_keeps_half (b : Bridge c) (i : CycleIn c) (x : Word c.caw) :
    lowHalf ((b.coeffPortWrite i).coeffWord x) = lowHalf (b.coeffWord x) ∨
      highHalf ((b.coeffPortWrite i).coeffWord x) = highHalf (b.coeffWord x) :=
  b.coeffWrite_keeps_half _ _ _ i.coeffWe_half_disabled

/-- A cycle that drives no enable asks for no coefficient write. -/
theorem Bridge.coeffPortWrite_sameCoeff {i : CycleIn c} (b : Bridge c) (h : i.coeffWe = 0#2) :
    SameCoeff (b.coeffPortWrite i) b := by
  intro x
  rw [Bridge.coeffPortWrite, h]
  exact (b.coeffWrite_zero_sameCoeff _ _ x).symm

@[simp] theorem lowField_toNat (low : Word c.lowW) : lowField c low.toNat = low := by simp [lowField]

@[simp] theorem busData_toNat (d : Word c.wCoeff) : busData c d.toNat = d := by simp [busData]

/-- The operation that a cycle's memory-bus request decodes to answers a next state and leaves the coefficient words that the
port signals of the cycle leave (R141 to R144). -/
theorem exec_decodeSmb_coeff (b : Bridge c) (i : CycleIn c) (hRst : i.rst = false) :
    ∃ b', exec (decodeSmb c i.smb) ⟨c, b⟩ = .next ⟨c, b'⟩ ∧ SameCoeff (b.coeffPortWrite i) b' := by
  have hEnables := i.coeffWe_eq
  unfold CycleIn.wr CycleIn.strobe at hEnables
  unfold decodeSmb
  split
  case h_1 | h_2 | h_3 | h_4 | h_5 | h_8 | h_9 =>
    -- NOP, the four reads, WRST and WRCFG: no enable is driven, and none of them reaches the coefficient memory.
    have hNone : i.coeffWe = 0#2 := by simp_all
    exact ⟨_, rfl, b.coeffPortWrite_sameCoeff hNone⟩
  case h_6 hStb hWe hState hSel | h_7 hStb hWe hState hSel =>
    -- WRCL and WRCH: the enable that the operation names is the one that `sel3` drives.
    simp only [hStb, hRst, hWe, hState, hSel] at hEnables
    refine ⟨_, rfl, fun x => ?_⟩
    simp [Bridge.coeffPortWrite, hEnables, Bridge.coeffWrite_coeffWord]

/-! The whole cycle -/

/-- A cycle without reset: the memory-bus operation, then the loads of the control words, then the clock edge (R215, R217). -/
theorem step_of_exec_decodeSmb {s : State} {b' : Bridge s.cfg} (hRst : s.br.currentIn.rst = false)
    (h : exec (decodeSmb s.cfg s.br.currentIn.smb) s.openCycle = .next ⟨s.cfg, b'⟩) :
    step s = .next ⟨s.cfg, ({ b' with ctrlWord := loadWords 0 s.br.currentIn.ccr.toList b'.ctrlWord } : Bridge s.cfg).closeCycle
      s.br.currentIn.cfgTick s.br.currentIn.engine⟩ := by
  have hCtrl := runOps_channelOpsFrom s.br.currentIn.ccr.toList 0 (by simp) b'
  simp only [step, hRst, cycleOps, runOps, h, hCtrl]
  rfl

/-- A plain cycle leaves the coefficient words that its port signals leave (R68, R141, R217). -/
theorem step_coeff_of_plain {s : State} (hPlain : s.br.currentIn.Plain) :
    ∃ b' : Bridge s.cfg, step s = .next ⟨s.cfg, b'⟩ ∧ SameCoeff (s.br.coeffPortWrite s.br.currentIn) b' := by
  obtain ⟨hRst, hEngine⟩ := hPlain
  obtain ⟨b', hExec, hSame⟩ := exec_decodeSmb_coeff s.openCycle.br s.br.currentIn hRst
  refine ⟨_, step_of_exec_decodeSmb hRst hExec, fun x => ?_⟩
  rw [hEngine, Bridge.closeCycle_coeffWord]
  exact hSame x

/-- Settles O37: `sel3` drives one half-write-enable or the other (R146), and what a plain cycle does to the coefficient
memory is the write of its port signals, which leaves the half whose enable is 0. -/
theorem halfWriteEnablesExclusive : Obligations.HalfWriteEnablesExclusive := by
  refine ⟨fun c b i => ?_, fun s hPlain => ?_⟩
  · rw [b.outputs_coeffWe]
    exact ⟨i.coeffWe_ne_both, i.getLsbD_coeffWe⟩
  · obtain ⟨b', hStep, hSame⟩ := step_coeff_of_plain hPlain
    refine ⟨b', hStep, fun x => ?_⟩
    rw [hSame x]
    exact s.br.coeffPortWrite_keeps_half s.br.currentIn x

end Sys2Proof.Machine
end

section
/-! The pending-read registers (R161, R162): a strobed read request captures itself, and every other cycle clears the flag and
keeps what was captured. -/

namespace Sys2Proof.Machine

variable {c : Config}

/-- R164: outside reset the read strobe is the pending-read flag. -/
theorem Bridge.outputs_iStb_of_not_rst (b : Bridge c) {i : CycleIn c} (hRst : i.rst = false) :
    (b.outputs i).iStb = b.rdPending := by
  change (b.rdPending && !i.rst) = b.rdPending
  simp [hRst]

/-! The memory-bus operation -/

/-- All four reads do one thing: they capture the selects and the low field of the request (R167 to R169, R182). -/
theorem exec_decodeSmb_of_read (b : Bridge c) {r : SmbReq c} (h : r.stb = true ∧ r.we = false) :
    exec (decodeSmb c r) ⟨c, b⟩ = .next ⟨c, b.captureRead r.stateSel r.sel3 r.low⟩ := by
  obtain ⟨hStb, hWe⟩ := h
  unfold decodeSmb
  split
  case h_1 | h_6 | h_7 | h_8 | h_9 => simp_all
  case h_2 hState hSel | h_3 hState hSel | h_4 hState hSel | h_5 hState hSel =>
    simp [exec, execRdcl, execRdch, execRdst, execRdstatus, State.become, hState, hSel]

/-- NOP and the four writes clear the flag and keep the captured request (R140 to R144, R181). -/
theorem exec_decodeSmb_of_not_read (b : Bridge c) {r : SmbReq c} (h : ¬ (r.stb = true ∧ r.we = false)) :
    ∃ b', exec (decodeSmb c r) ⟨c, b⟩ = .next ⟨c, b'⟩ ∧ b'.rdPending = false ∧ SameCapture b b' := by
  unfold decodeSmb
  split
  case h_2 hStb hWe _ _ | h_3 hStb hWe _ _ | h_4 hStb hWe _ _ | h_5 hStb hWe _ _ => exact absurd ⟨hStb, hWe⟩ h
  case h_1 | h_6 | h_7 | h_8 | h_9 => exact ⟨_, rfl, rfl, rfl, rfl, rfl, rfl⟩

/-! The whole cycle -/

/-- R161, R162: after a strobed read request the flag is 1 and the three registers hold the request. -/
theorem step_of_read {s : State} (hRst : s.br.currentIn.rst = false)
    (h : s.br.currentIn.smb.stb = true ∧ s.br.currentIn.smb.we = false) :
    ∃ b' : Bridge s.cfg, step s = .next ⟨s.cfg, b'⟩ ∧ b'.rdPending = true ∧
      b'.rdStateSel = s.br.currentIn.smb.stateSel ∧ b'.rdSel3 = s.br.currentIn.smb.sel3 ∧
      b'.rdAdr = s.br.currentIn.smb.low :=
  ⟨_, step_of_exec_decodeSmb hRst (exec_decodeSmb_of_read s.openCycle.br h), by simp⟩

/-- R161, R162: after any other cycle the flag is 0 and what was captured stays. The engine's writes of the cycle count as
contention only where a read was requested, so they leave `rdContended` as well. -/
theorem step_of_not_read {s : State} (hRst : s.br.currentIn.rst = false)
    (h : ¬ (s.br.currentIn.smb.stb = true ∧ s.br.currentIn.smb.we = false)) :
    ∃ b' : Bridge s.cfg, step s = .next ⟨s.cfg, b'⟩ ∧ b'.rdPending = false ∧ SameCapture s.br b' := by
  obtain ⟨b', hExec, hPending, hState, hSel, hAdr, hContended⟩ := exec_decodeSmb_of_not_read s.openCycle.br h
  refine ⟨_, step_of_exec_decodeSmb hRst hExec, by simpa using hPending, by simpa using hState, by simpa using hSel,
    by simpa using hAdr, ?_⟩
  simpa [hPending] using hContended

/-- The flag after a cycle is the cycle's strobed read request (R161, R217). -/
theorem step_rdPending {s : State} (hRst : s.br.currentIn.rst = false) :
    ∃ b' : Bridge s.cfg, step s = .next ⟨s.cfg, b'⟩ ∧
      b'.rdPending = (s.br.currentIn.smb.stb && !s.br.currentIn.smb.we) := by
  by_cases hRead : s.br.currentIn.smb.stb = true ∧ s.br.currentIn.smb.we = false
  · obtain ⟨b', hStep, hPending, -⟩ := step_of_read hRst hRead
    exact ⟨b', hStep, by simp [hPending, hRead]⟩
  · obtain ⟨b', hStep, hPending, -⟩ := step_of_not_read hRst hRead
    exact ⟨b', hStep, by simpa [hPending] using hRead⟩

/-- Settles O44: the flag after the cycle is its strobed read request, and the next cycle's strobe is that flag (R161, R164,
R170). -/
theorem oneResponsePerRead : Obligations.OneResponsePerRead := by
  intro s hRst
  obtain ⟨b', hStep, hPending⟩ := step_rdPending hRst
  exact ⟨b', hStep, hPending, fun i hNext => (b'.outputs_iStb_of_not_rst hNext).trans hPending⟩

/-- Settles O45: by whether the cycle holds a strobed read request (R162). -/
theorem readCapturesRequest : Obligations.ReadCapturesRequest := by
  intro s hRst
  by_cases hRead : s.br.currentIn.smb.stb = true ∧ s.br.currentIn.smb.we = false
  · obtain ⟨b', hStep, -, hCaptured⟩ := step_of_read hRst hRead
    exact ⟨b', hStep, fun _ => hCaptured, fun hNot => absurd hRead hNot⟩
  · obtain ⟨b', hStep, -, hKept⟩ := step_of_not_read hRst hRead
    exact ⟨b', hStep, fun hIs => absurd hIs hRead, fun _ => hKept⟩

end Sys2Proof.Machine
end

section
/-! The start output: the flag is the config register, and the record of a cycle's outputs carries that flag. -/

namespace Sys2Proof.Machine

@[simp] theorem Bridge.start_eq_config {c : Config} (b : Bridge c) : b.start = b.config := rfl

@[simp] theorem Bridge.outputs_start {c : Config} (b : Bridge c) (i : CycleIn c) :
    (b.outputs i).start = b.start := rfl

/-- Settles O41: the output record carries the flag, which reads the config register and none of the cycle's inputs, `rst` and
`cfg_tick` among them (R188). -/
theorem startMirrorsConfig : Obligations.StartMirrorsConfig := by
  intro c b i
  calc (b.outputs i).start
    _ = b.start := b.outputs_start i
    _ = b.config := b.start_eq_config

end Sys2Proof.Machine
end

section
/-! The control channels of a cycle (R200, R202, R203): the outputs of a channel are its strobe beside the fields of the word
held before the cycle, and a cycle without reset loads the words of the channels with a strobe and no other. -/

namespace Sys2Proof.Machine

variable {c : Config}

/-! The outputs of a channel -/

@[simp] theorem channelOut_stb (r : CcrReq c) (v : Word c.wCtrl) : (channelOut c r v).stb = r.stb := rfl
@[simp] theorem channelOut_profile (r : CcrReq c) (v : Word c.wCtrl) : (channelOut c r v).profile = ctrlProfile c v := rfl
@[simp] theorem channelOut_enIir (r : CcrReq c) (v : Word c.wCtrl) : (channelOut c r v).enIir = ctrlEnIir c v := rfl
@[simp] theorem channelOut_enOut (r : CcrReq c) (v : Word c.wCtrl) : (channelOut c r v).enOut = ctrlEnOut c v := rfl

/-- A channel's outputs read its own request and its own word, and nothing of another channel or of the memory bus. -/
@[simp] theorem Bridge.getElem_outputs_channels (b : Bridge c) (i : CycleIn c) (k : Nat) (hk : k < c.nCh) :
    (b.outputs i).channels[k] = channelOut c i.ccr[k] b.ctrlWord[k] :=
  Vector.getElem_zipWith hk

/-! The words after a cycle -/

/-- No operation of the memory bus reaches the control words. -/
theorem exec_decodeSmb_ctrlWord (b : Bridge c) (r : SmbReq c) :
    ∃ b', exec (decodeSmb c r) ⟨c, b⟩ = .next ⟨c, b'⟩ ∧ b'.ctrlWord = b.ctrlWord := by
  unfold decodeSmb
  split
  case h_1 | h_2 | h_3 | h_4 | h_5 | h_6 | h_7 | h_8 | h_9 => exact ⟨_, rfl, rfl⟩

/-- The control words after a cycle without reset: those of the channels with a strobe are loaded, the others kept. -/
theorem step_ctrlWord {s : State} (hRst : s.br.currentIn.rst = false) :
    ∃ b' : Bridge s.cfg, step s = .next ⟨s.cfg, b'⟩ ∧ ∀ (k : Nat) (hk : k < s.cfg.nCh), b'.ctrlWord[k] =
      if s.br.currentIn.ccr[k].stb then s.br.currentIn.ccr[k].data else s.br.ctrlWord[k] := by
  obtain ⟨b', hExec, hKept⟩ := exec_decodeSmb_ctrlWord s.openCycle.br s.br.currentIn.smb
  have hOpen : b'.ctrlWord = s.br.ctrlWord := hKept.trans (by simp)
  refine ⟨_, step_of_exec_decodeSmb hRst hExec, fun k hk => ?_⟩
  simp only [Bridge.closeCycle_ctrlWord, hOpen, loadWords_all, Vector.getElem_zipWith]

/-- Settles O58: without a strobe the load takes its other branch, so the word stays (R203); the field outputs of the next
cycle, whatever its inputs, are fields of that word (R202). -/
theorem idleChannelKeepsItsWord : Obligations.IdleChannelKeepsItsWord := by
  intro s hRst
  obtain ⟨b', hStep, hLoad⟩ := step_ctrlWord hRst
  refine ⟨b', hStep, fun k hk hIdle => ?_⟩
  have hWord : b'.ctrlWord[k] = s.br.ctrlWord[k] := by rw [hLoad k hk, hIdle]; rfl
  refine ⟨?_, hWord, fun i => ?_⟩
  · rw [Bridge.getElem_outputs_channels, channelOut_stb, hIdle]
  · simp [hWord]

end Sys2Proof.Machine
end

section
/-! Nothing stops (R230): only the two operations of a control bus check anything, namely that their channel exists, and both a
well-formed operation and a cycle's own requests name channels that do. -/

namespace Sys2Proof.Machine

/-! The operations of a control bus -/

/-- R203: an idle cycle of an existing channel completes. -/
theorem exec_cnop_of_lt (s : State) {ch : Nat} (hCh : ch < s.cfg.nCh) : exec (.cnop ch) s = s.become s.br :=
  if_pos hCh

/-- R201: a write of an existing channel completes, whatever its fields, which the bus cuts (R116). -/
theorem exec_wrctrl_of_lt (s : State) {ch : Nat} (hCh : ch < s.cfg.nCh) (profile : Nat) (enIir enOut : Bool) :
    exec (.wrctrl ch profile enIir enOut) s =
      s.become (s.br.loadCtrl ch hCh (packCtrl s.cfg profile enIir enOut)) :=
  dif_pos hCh

theorem lt_nCh_of_wellFormed_cnop {c : Config} {ch : Nat} (h : wellFormed c (.cnop ch) = true) : ch < c.nCh :=
  of_decide_eq_true h

theorem lt_nCh_of_wellFormed_wrctrl {c : Config} {ch profile : Nat} {enIir enOut : Bool}
    (h : wellFormed c (.wrctrl ch profile enIir enOut) = true) : ch < c.nCh :=
  of_decide_eq_true (Bool.and_eq_true_iff.mp h).1

/-! Every operation, and the whole step -/

/-- The operations of the memory bus complete in every state; those of a control bus do as their channel exists. -/
theorem exec_next_of_wellFormed (s : State) {i : Instr} (h : wellFormed s.cfg i = true) : ∃ t, exec i s = .next t := by
  cases i with
  | nop | rdcl | rdch | rdst | rdstatus | wrcl | wrch | wrst | wrcfg => exact ⟨_, rfl⟩
  | cnop ch => exact ⟨_, exec_cnop_of_lt s (lt_nCh_of_wellFormed_cnop h)⟩
  | wrctrl ch profile enIir enOut =>
    exact ⟨_, exec_wrctrl_of_lt s (lt_nCh_of_wellFormed_wrctrl h) profile enIir enOut⟩

/-- R260: a reset cycle performs no operation. -/
theorem step_of_rst {s : State} (hRst : s.br.currentIn.rst = true) : step s = .next s.afterReset :=
  if_pos hRst

/-- A reset cycle runs no operation that could stop; in any other the memory-bus operation completes, and the control requests
stand on the buses of existing channels. -/
theorem step_next (s : State) : ∃ t, step s = .next t := by
  cases hRst : s.br.currentIn.rst with
  | true => exact ⟨_, step_of_rst hRst⟩
  | false =>
    obtain ⟨b', hExec, -⟩ := exec_decodeSmb_ctrlWord s.openCycle.br s.br.currentIn.smb
    exact ⟨_, step_of_exec_decodeSmb hRst hExec⟩

/-- Settles O25: a step by whether it is a reset, an operation by its constructor (R230). -/
theorem nothingEverStops : Obligations.NothingEverStops :=
  ⟨step_next, fun s _ hFits => exec_next_of_wellFormed s hFits⟩

end Sys2Proof.Machine
end

section
/-! Parameter sets (R231 to R236): what each assertion asks of a set, and that a set is refused with the names of exactly the
assertions it does not meet. -/

namespace Sys2Proof

/-- What an assertion asks of a parameter set (R231 to R235, D3, D4, D6). -/
def Params.Meets (p : Params) : Assertion → Prop
  | .stateWidth => p.wCoeff ≤ p.wState
  | .storageWidth => p.wStore = 2 * p.wCoeff
  | .narrowestWord => p.wWord ≤ p.wCoeff
  | .addressBus => p.aw = 3 + p.lowW
  | .halfWidthBound => 2 ≤ p.wCoeff
  | .wordBound => 1 ≤ p.wWord
  | .statusBits => p.StatusBitsFit
  | .configBit => p.cfgDataBit < p.wCoeff
  | .controlFields => p.ControlFieldsFit

theorem Assertion.mem_unless {a x : Assertion} {ok : Bool} : x ∈ a.unless ok ↔ x = a ∧ ok = false := by
  cases ok <;> simp [Assertion.unless]

/-- A set violates an assertion exactly when it does not meet it. -/
theorem Params.mem_violations (p : Params) (a : Assertion) : a ∈ p.violations ↔ ¬ p.Meets a := by
  unfold Params.violations
  cases a <;> simp only [List.mem_append, Assertion.mem_unless, decide_eq_false_iff_not, reduceCtorEq, false_and, true_and,
    or_false, false_or] <;> rfl

theorem Config.make_eq_ok_iff (p : Params) : (∃ c, Config.make p = .ok c ∧ c.toParams = p) ↔ p.violations = [] := by
  constructor
  · rintro ⟨c, -, rfl⟩
    exact c.legal
  · intro h
    exact ⟨⟨p, h⟩, dif_pos h, rfl⟩

theorem Config.eq_violations_of_make_eq_error {p : Params} {l : List Assertion} (h : Config.make p = .error l) :
    l = p.violations ∧ l ≠ [] := by
  unfold Config.make at h
  split at h
  next => cases h
  next hNot =>
    cases h
    exact ⟨rfl, hNot⟩

/-- Settles O1: acceptance is a list of violations without entries, and a refusal names that list, in which an assertion stands
exactly when the set does not meet it. -/
theorem configurationAcceptedIffLegal : Obligations.ConfigurationAcceptedIffLegal := by
  intro p bitsFit fieldsFit
  refine ⟨(Config.make_eq_ok_iff p).trans p.violations_eq_nil, fun l hRefused => ?_⟩
  obtain ⟨rfl, hSome⟩ := Config.eq_violations_of_make_eq_error hRefused
  exact ⟨hSome, (p.mem_violations _).trans Nat.not_le, p.mem_violations _, (p.mem_violations _).trans Nat.not_le,
    p.mem_violations _, (p.mem_violations _).trans Nat.not_le, (p.mem_violations _).trans Nat.not_le, p.mem_violations _,
    (p.mem_violations _).trans Nat.not_lt, p.mem_violations _⟩

end Sys2Proof
end

section
/-! The decoder and the encoder (R100 to R123): the operation of each value of the select bits, the fields of an encoded address,
and a request as a number. -/

namespace Sys2Proof

open Sys2Proof.Machine

variable {c : Config}

/-! The operation map (R120): one equation per row. -/

section
variable {r : SmbReq c}

theorem decodeSmb_of_not_stb (hStb : r.stb = false) : decodeSmb c r = .nop := by
  simp [decodeSmb, hStb]

theorem decodeSmb_rdcl (hStb : r.stb = true) (hWe : r.we = false) (hState : r.stateSel = false) (hSel : r.sel3 = false) :
    decodeSmb c r = .rdcl r.low.toNat := by simp [decodeSmb, hStb, hWe, hState, hSel]

theorem decodeSmb_rdch (hStb : r.stb = true) (hWe : r.we = false) (hState : r.stateSel = false) (hSel : r.sel3 = true) :
    decodeSmb c r = .rdch r.low.toNat := by simp [decodeSmb, hStb, hWe, hState, hSel]

theorem decodeSmb_rdst (hStb : r.stb = true) (hWe : r.we = false) (hState : r.stateSel = true) (hSel : r.sel3 = false) :
    decodeSmb c r = .rdst r.low.toNat := by simp [decodeSmb, hStb, hWe, hState, hSel]

theorem decodeSmb_rdstatus (hStb : r.stb = true) (hWe : r.we = false) (hState : r.stateSel = true) (hSel : r.sel3 = true) :
    decodeSmb c r = .rdstatus r.low.toNat := by simp [decodeSmb, hStb, hWe, hState, hSel]

theorem decodeSmb_wrcl (hStb : r.stb = true) (hWe : r.we = true) (hState : r.stateSel = false) (hSel : r.sel3 = false) :
    decodeSmb c r = .wrcl r.low.toNat r.data.toNat := by simp [decodeSmb, hStb, hWe, hState, hSel]

theorem decodeSmb_wrch (hStb : r.stb = true) (hWe : r.we = true) (hState : r.stateSel = false) (hSel : r.sel3 = true) :
    decodeSmb c r = .wrch r.low.toNat r.data.toNat := by simp [decodeSmb, hStb, hWe, hState, hSel]

theorem decodeSmb_wrst (hStb : r.stb = true) (hWe : r.we = true) (hState : r.stateSel = true) (hSel : r.sel3 = false) :
    decodeSmb c r = .wrst r.low.toNat r.data.toNat := by simp [decodeSmb, hStb, hWe, hState, hSel]

theorem decodeSmb_wrcfg (hStb : r.stb = true) (hWe : r.we = true) (hState : r.stateSel = true) (hSel : r.sel3 = true) :
    decodeSmb c r = .wrcfg (configBit c r.data) := by simp [decodeSmb, hStb, hWe, hState, hSel]

theorem decodeCcr_of_stb {r : CcrReq c} (ch : Nat) (hStb : r.stb = true) : decodeCcr c ch r =
    .wrctrl ch (ctrlProfile c r.data).toNat (ctrlEnIir c r.data) (ctrlEnOut c r.data) := if_pos hStb

theorem decodeCcr_of_not_stb {r : CcrReq c} (ch : Nat) (hStb : r.stb = false) : decodeCcr c ch r = .cnop ch := by
  simp [decodeCcr, hStb]

end

/-! The fields of an address -/

/-- The address bus is the three select bits beside the low field (R234), so cutting it to its width loses nothing. -/
theorem getLsbD_encodeAddress (c : Config) (op3 : Word 3) (low i : Nat) :
    (encodeAddress c op3 low).getLsbD i = if i < c.lowW then (lowField c low).getLsbD i else op3.getLsbD (i - c.lowW) := by
  have hAw := c.aw_eq
  rw [encodeAddress, BitVec.getLsbD_setWidth, BitVec.getLsbD_append]
  by_cases hi : i < c.aw
  · simp [hi]
  · have hLow : ¬ i < c.lowW := by omega
    have hOp : op3.getLsbD (i - c.lowW) = false := BitVec.getLsbD_of_ge _ _ (by omega)
    simp [hi, hLow, hOp]

section
variable (op3 : Word 3) (low : Nat) (data : Word c.wCoeff)

@[simp] theorem encodeSmb_stb : (encodeSmb c op3 low data).stb = true := rfl
@[simp] theorem encodeSmb_data : (encodeSmb c op3 low data).data = data := rfl

@[simp] theorem encodeSmb_we : (encodeSmb c op3 low data).we = op3.getLsbD 2 := by
  simp [SmbReq.we, encodeSmb, getLsbD_encodeAddress, c.aw_eq, show 3 + c.lowW - 1 = c.lowW + 2 by omega]

@[simp] theorem encodeSmb_stateSel : (encodeSmb c op3 low data).stateSel = op3.getLsbD 1 := by
  simp [SmbReq.stateSel, encodeSmb, getLsbD_encodeAddress, c.aw_eq, show 3 + c.lowW - 2 = c.lowW + 1 by omega]

@[simp] theorem encodeSmb_sel3 : (encodeSmb c op3 low data).sel3 = op3.getLsbD 0 := by
  rw [SmbReq.sel3, encodeSmb, getLsbD_encodeAddress, show c.aw - 3 = c.lowW by simp [c.aw_eq]]
  simp

@[simp] theorem encodeSmb_low : (encodeSmb c op3 low data).low = lowField c low := by
  apply BitVec.eq_of_getLsbD_eq
  intro i hi
  simp [SmbReq.low, encodeSmb, getLsbD_encodeAddress, hi]

end

/-- An address that fits the low field is the number the field carries (R104). -/
theorem lowField_toNat_of_fits {a : Nat} (h : decide (a < 2 ^ c.lowW) = true) : (lowField c a).toNat = a := by
  simp [lowField, Nat.mod_eq_of_lt (of_decide_eq_true h)]

/-- A data word that fits the data bus is the number the bus carries (R21). -/
theorem busData_toNat_of_fits {d : Nat} (h : decide (d < 2 ^ c.wCoeff) = true) : (busData c d).toNat = d := by
  simp [busData, Nat.mod_eq_of_lt (of_decide_eq_true h)]

/-- A write whose address and data word fit their buses. -/
theorem write_operands_of_fits {a d : Nat} (h : (decide (a < 2 ^ c.lowW) && decide (d < 2 ^ c.wCoeff)) = true) :
    (lowField c a).toNat = a ∧ (busData c d).toNat = d := by
  obtain ⟨hAddress, hData⟩ := Bool.and_eq_true_iff.mp h
  exact ⟨lowField_toNat_of_fits hAddress, busData_toNat_of_fits hData⟩

/-- Settles O2: the select bits of the encoded address choose the operation's own row, and an operand that fits its bus is the
number the bus carries (R107, R120, R121). -/
theorem decodeOfEncode : Obligations.DecodeOfEncode := by
  intro c i hFits
  cases i with
  | nop => exact congrArg _ (decodeSmb_of_not_stb rfl)
  | rdcl a => rw [encode, decode, decodeSmb_rdcl] <;> simp [lowField_toNat_of_fits hFits]
  | rdch a => rw [encode, decode, decodeSmb_rdch] <;> simp [lowField_toNat_of_fits hFits]
  | rdst a => rw [encode, decode, decodeSmb_rdst] <;> simp [lowField_toNat_of_fits hFits]
  | rdstatus low => rw [encode, decode, decodeSmb_rdstatus] <;> simp [lowField_toNat_of_fits hFits]
  | wrcl a d => rw [encode, decode, decodeSmb_wrcl] <;> simp [write_operands_of_fits hFits]
  | wrch a d => rw [encode, decode, decodeSmb_wrch] <;> simp [write_operands_of_fits hFits]
  | wrst a d => rw [encode, decode, decodeSmb_wrst] <;> simp [write_operands_of_fits hFits]
  | wrcfg b => rw [encode, decode, decodeSmb_wrcfg] <;> simp [configBit_configData]
  | cnop ch =>
    have hCh : ch < c.nCh := lt_nCh_of_wellFormed_cnop hFits
    simp [encode, decode, hCh, decodeCcr_of_not_stb, CcrReq.idle]
  | wrctrl ch profile enIir enOut =>
    obtain ⟨hCh, hProfile⟩ := Bool.and_eq_true_iff.mp hFits
    have hCut : profile % 2 ^ c.wProfile = profile := Nat.mod_eq_of_lt (of_decide_eq_true hProfile)
    simp [encode, decode, of_decide_eq_true hCh, decodeCcr_of_stb, ctrlProfile_packCtrl, ctrlEnIir_packCtrl,
      ctrlEnOut_packCtrl, hCut]

/-- The address of a request is its own select bits beside its low field (R101 to R104). -/
theorem encodeAddress_of_fields (r : SmbReq c) {op3 : Word 3} (hWe : r.we = op3.getLsbD 2)
    (hState : r.stateSel = op3.getLsbD 1) (hSel : r.sel3 = op3.getLsbD 0) : encodeAddress c op3 r.low.toNat = r.address := by
  have hAw := c.aw_eq
  apply BitVec.eq_of_getLsbD_eq
  intro i hi
  rw [getLsbD_encodeAddress, lowField_toNat]
  split_ifs with hLow
  · simp [SmbReq.low, hLow]
  · obtain rfl | rfl | rfl : i = c.aw - 1 ∨ i = c.aw - 2 ∨ i = c.aw - 3 := by omega
    · rw [show c.aw - 1 - c.lowW = 2 by omega]; exact hWe.symm
    · rw [show c.aw - 2 - c.lowW = 1 by omega]; exact hState.symm
    · rw [show c.aw - 3 - c.lowW = 0 by omega]; exact hSel.symm

theorem encodeSmb_of_fields {r : SmbReq c} {op3 : Word 3} (hStb : r.stb = true) (hWe : r.we = op3.getLsbD 2)
    (hState : r.stateSel = op3.getLsbD 1) (hSel : r.sel3 = op3.getLsbD 0) :
    encodeSmb c op3 r.low.toNat (busData c r.data.toNat) = r := by
  rw [encodeSmb, encodeAddress_of_fields r hWe hState hSel, busData_toNat, ← hStb]

/-- Settles O3: a memory write is its select bits, low field and data word, and a control word is its three fields (R107, R115). -/
theorem encodeOfDecodeWithoutIgnoredBits : Obligations.EncodeOfDecodeWithoutIgnoredBits := by
  refine fun c => ⟨fun r hStb hWe hMemory => ?_, fun ch r hStb => ?_⟩
  · cases hState : r.stateSel <;> cases hSel : r.sel3
    · rw [decodeSmb_wrcl hStb hWe hState hSel]
      exact congrArg Request.smb (encodeSmb_of_fields hStb hWe hState hSel)
    · rw [decodeSmb_wrch hStb hWe hState hSel]
      exact congrArg Request.smb (encodeSmb_of_fields hStb hWe hState hSel)
    · rw [decodeSmb_wrst hStb hWe hState hSel]
      exact congrArg Request.smb (encodeSmb_of_fields hStb hWe hState hSel)
    · simp [hState, hSel] at hMemory
  · rw [decodeCcr_of_stb ch hStb, encode, packCtrl_fields, ← hStb]

theorem wellFormed_decodeSmb (r : SmbReq c) : wellFormed c (decodeSmb c r) = true := by
  have hLow : r.low.toNat < 2 ^ c.lowW := r.low.isLt
  have hData : r.data.toNat < 2 ^ c.wCoeff := r.data.isLt
  unfold decodeSmb
  split <;> simp [wellFormed, hLow, hData]

theorem wellFormed_decodeCcr {ch : Nat} (hCh : ch < c.nCh) (r : CcrReq c) : wellFormed c (decodeCcr c ch r) = true := by
  have hProfile : (ctrlProfile c r.data).toNat < 2 ^ c.wProfile := (ctrlProfile c r.data).isLt
  unfold decodeCcr
  split <;> simp [wellFormed, hCh, hProfile]

/-- Settles O4: no request is refused on its bus, and what a bus carries fits it (R122). -/
theorem everyRequestDecodes : Obligations.EveryRequestDecodes := fun _ =>
  ⟨fun r => ⟨_, rfl, wellFormed_decodeSmb r⟩, fun _ r hCh => ⟨_, if_pos hCh, wellFormed_decodeCcr hCh r⟩⟩

/-! A request as a number (R100, R105) -/

theorem SmbReq.toWord_eq (r : SmbReq c) :
    r.toWord = 2 ^ c.aw * (2 * r.data.toNat + r.stb.toNat) + r.address.toNat := by
  simp only [SmbReq.toWord, Nat.shiftLeft_eq, Nat.pow_succ]; ring

theorem CcrReq.toWord_eq (r : CcrReq c) : r.toWord = 2 ^ c.wCtrl * r.stb.toNat + r.data.toNat := by
  simp only [CcrReq.toWord, Nat.shiftLeft_eq]; ring

/-- What stands above the `n` low bits of a number laid out in two parts. -/
theorem two_pow_mul_add_div {n : Nat} (high : Nat) (low : Word n) : (2 ^ n * high + low.toNat) / 2 ^ n = high := by
  rw [Nat.mul_add_div (by positivity), Nat.div_eq_of_lt low.isLt, Nat.add_zero]

theorem ofNat_two_pow_mul_add {n : Nat} (high : Nat) (low : Word n) : BitVec.ofNat n (2 ^ n * high + low.toNat) = low := by
  apply BitVec.eq_of_toNat_eq
  rw [BitVec.toNat_ofNat, Nat.mul_add_mod, Nat.mod_eq_of_lt low.isLt]

theorem SmbReq.ofWord_toWord (r : SmbReq c) : SmbReq.ofWord c r.toWord = r := by
  have hHigh : r.toWord / 2 ^ c.aw = 2 * r.data.toNat + r.stb.toNat := by
    rw [r.toWord_eq, two_pow_mul_add_div]
  have hStb : r.toWord.testBit c.aw = r.stb := by
    rw [Nat.testBit_eq_decide_div_mod_eq, hHigh]
    cases r.stb <;> simp
  have hAddress : BitVec.ofNat c.aw r.toWord = r.address := by
    rw [r.toWord_eq, ofNat_two_pow_mul_add]
  have hData : r.toWord >>> (c.aw + 1) = r.data.toNat := by
    rw [Nat.shiftRight_eq_div_pow, Nat.pow_succ, ← Nat.div_div_eq_div_mul, hHigh]
    cases r.stb <;> simp; omega
  rw [SmbReq.ofWord, hStb, hAddress, hData, BitVec.ofNat_toNat, BitVec.setWidth_eq]

theorem CcrReq.ofWord_toWord (r : CcrReq c) : CcrReq.ofWord c r.toWord = r := by
  have hStb : r.toWord.testBit c.wCtrl = r.stb := by
    rw [Nat.testBit_eq_decide_div_mod_eq, r.toWord_eq, two_pow_mul_add_div]
    cases r.stb <;> simp
  rw [CcrReq.ofWord, hStb, r.toWord_eq, ofNat_two_pow_mul_add]

/-- Settles O7: no two lines of a bus share a bit of the number, on either bus. -/
theorem requestWordRoundTrip : Obligations.RequestWordRoundTrip := fun _ =>
  ⟨SmbReq.ofWord_toWord, CcrReq.ofWord_toWord⟩

/-- A read or an idle cycle is its strobe and its address: the data word selects nothing (R123). -/
theorem decodeSmb_congr_of_not_we {r q : SmbReq c} (hStb : r.stb = q.stb) (hAddress : r.address = q.address)
    (hWe : r.we = false) : decodeSmb c r = decodeSmb c q := by
  have hLow : r.low = q.low := congrArg (trunc c.lowW) hAddress
  have hWe' : q.we = false := by rw [← hWe, SmbReq.we, SmbReq.we, hAddress]
  have hState : r.stateSel = q.stateSel := by rw [SmbReq.stateSel, SmbReq.stateSel, hAddress]
  have hSel : r.sel3 = q.sel3 := by rw [SmbReq.sel3, SmbReq.sel3, hAddress]
  unfold decodeSmb
  rw [hStb, hWe, hState, hSel, hWe', hLow]
  cases q.stb <;> cases q.stateSel <;> cases q.sel3 <;> rfl

/-- Settles O8: by the row of the operation map, whose operation keeps none of the bits in question (R108, R123). -/
theorem unusedBitsIgnored : Obligations.UnusedBitsIgnored := by
  intro c stb x y d e r q
  refine ⟨fun hStb => ?_, fun hWe hSame => ?_, fun hWe hState hSel hWe' hState' hSel' hBit => ?_⟩
  · exact (decodeSmb_of_not_stb hStb).trans (decodeSmb_of_not_stb hStb).symm
  · exact decodeSmb_congr_of_not_we rfl hSame hWe
  · cases hStb : stb
    · exact (decodeSmb_of_not_stb hStb).trans (decodeSmb_of_not_stb hStb).symm
    · rw [decodeSmb_wrcfg hStb hWe hState hSel, decodeSmb_wrcfg hStb hWe' hState' hSel']
      exact congrArg _ hBit

/-- Settles O5: one equation of the operation map per value of the strobe and the select bits (R106, R120). -/
theorem selectBitsChooseOperation : Obligations.SelectBitsChooseOperation := fun _ _ =>
  ⟨decodeSmb_of_not_stb, decodeSmb_rdcl, decodeSmb_rdch, decodeSmb_rdst, decodeSmb_rdstatus, decodeSmb_wrcl, decodeSmb_wrch,
    decodeSmb_wrst, decodeSmb_wrcfg⟩

/-- Settles O6: each word is a closed number, which the decoder evaluates. -/
theorem sampleWordsDecode : Obligations.SampleWordsDecode := by
  unfold Obligations.SampleWordsDecode
  decide

end Sys2Proof
end

section
/-! What each operation answers, its result and its frame (R116, R140 to R144, R167 to R169, R181, R182, R201, R203), from the
rules of the primitives it calls. -/

namespace Sys2Proof.Machine

variable {c : Config}

/-! Operands too wide for their bus (R116) and addresses wider than a memory's (R65, R66) -/

theorem ofNat_mod_two_pow (n x : Nat) : BitVec.ofNat n (x % 2 ^ n) = BitVec.ofNat n x :=
  BitVec.eq_of_toNat_eq (by simp)

theorem lowField_mod (a : Nat) : lowField c (a % 2 ^ c.lowW) = lowField c a := ofNat_mod_two_pow _ a

theorem busData_mod (d : Nat) : busData c (d % 2 ^ c.wCoeff) = busData c d := ofNat_mod_two_pow _ d

theorem packCtrl_mod (profile : Nat) (enIir enOut : Bool) :
    packCtrl c (profile % 2 ^ c.wProfile) enIir enOut = packCtrl c profile enIir enOut := by
  rw [packCtrl, ofNat_mod_two_pow, packCtrl]

/-- Settles O9: an operation reads an operand only through the bus that carries it, which takes its low bits (R116). -/
theorem overWideOperandsCut : Obligations.OverWideOperandsCut := by
  intro s a d ch p enIir enOut
  refine ⟨?_, ?_, ?_, ?_⟩
  · simp only [exec, execWrcl, lowField_mod, busData_mod]
  · simp only [exec, execWrch, lowField_mod, busData_mod]
  · simp only [exec, execWrst, lowField_mod, busData_mod]
  · simp only [exec, execWrctrl, packCtrl_mod]

theorem coeffAdr_toNat (low : Word c.lowW) : (coeffAdr c low).toNat = low.toNat % 2 ^ c.caw := BitVec.toNat_setWidth ..

theorem stateAdr_toNat (low : Word c.lowW) : (stateAdr c low).toNat = low.toNat % 2 ^ c.saw := BitVec.toNat_setWidth ..

theorem coeffAdr_lowField_toNat (a : Nat) : (coeffAdr c (lowField c a)).toNat = a % 2 ^ c.caw := by
  rw [coeffAdr_toNat, lowField, BitVec.toNat_ofNat, Nat.mod_mod_of_dvd _ (pow_dvd_pow 2 c.caw_le_lowW)]

theorem stateAdr_lowField_toNat (a : Nat) : (stateAdr c (lowField c a)).toNat = a % 2 ^ c.saw := by
  rw [stateAdr_toNat, lowField, BitVec.toNat_ofNat, Nat.mod_mod_of_dvd _ (pow_dvd_pow 2 c.saw_le_lowW)]

theorem coeffAdr_lowField_congr {a a' : Nat} (h : a % 2 ^ c.caw = a' % 2 ^ c.caw) :
    coeffAdr c (lowField c a) = coeffAdr c (lowField c a') := by
  apply BitVec.eq_of_toNat_eq
  rw [coeffAdr_lowField_toNat, coeffAdr_lowField_toNat, h]

theorem stateAdr_lowField_congr {a a' : Nat} (h : a % 2 ^ c.saw = a' % 2 ^ c.saw) :
    stateAdr c (lowField c a) = stateAdr c (lowField c a') := by
  apply BitVec.eq_of_toNat_eq
  rw [stateAdr_lowField_toNat, stateAdr_lowField_toNat, h]

/-! The word a read answers -/

/-- R165: the response of a coefficient read is the half that `rd_sel3` picks. -/
theorem Bridge.readMux_half (b : Bridge c) (done : Bool) (hState : b.rdStateSel = false) :
    b.readMux done = halfOf b.rdSel3 b.coeffRead := by
  unfold Bridge.readMux
  rw [hState]
  cases b.rdSel3 <;> rfl

/-- R165: the response of a state read is the exposed part. -/
theorem Bridge.readMux_exposed (b : Bridge c) (done : Bool) (hState : b.rdStateSel = true) (hSel : b.rdSel3 = false) :
    b.readMux done = exposedPart c b.stateRead := by
  simp [Bridge.readMux, hState, hSel]

/-- R165, R189: the response of a status read is the two flags of its own cycle. -/
theorem Bridge.readMux_status (b : Bridge c) (done : Bool) (hState : b.rdStateSel = true) (hSel : b.rdSel3 = true) :
    b.readMux done = statusResponse c done b.config := by
  simp [Bridge.readMux, hState, hSel]

/-- The read data is a function of the pending read, of the engine writes that meet it, of the multiplexer's value and, where it
is free, of the draws. -/
theorem Bridge.iData_congr {b b' : Bridge c} {i i' : CycleIn c} (hStb : b'.iStb i' = b.iStb i)
    (hOpen : b'.responseOpen i' = b.responseOpen i) (hMux : b'.readMux i'.done = b.readMux i.done)
    (hDraws : b'.draws = b.draws) : b'.iData i' = b.iData i := by
  rw [Bridge.iData, Bridge.iData, hStb, hOpen, hMux, Bridge.freeReadData, hDraws, Bridge.freeReadData]

/-- Whether a coefficient location is the one read, and what is read there, depends on the memory's own bits of the address. -/
theorem Bridge.captureRead_coeff_iData_congr (b : Bridge c) (sel3 : Bool) {low low' : Word c.lowW}
    (h : coeffAdr c low' = coeffAdr c low) (i : CycleIn c) :
    (b.captureRead false sel3 low').iData i = (b.captureRead false sel3 low).iData i := by
  have hHits : (b.captureRead false sel3 low').engineWriteHits = (b.captureRead false sel3 low).engineWriteHits := by
    funext w
    cases w <;> simp [Bridge.engineWriteHits, EngineWrite.hits, h]
  have hRead : (b.captureRead false sel3 low').coeffRead = (b.captureRead false sel3 low).coeffRead :=
    congrArg b.coeffWord h
  refine Bridge.iData_congr rfl ?_ ?_ rfl
  · simp [Bridge.responseOpen, hHits]
  · rw [Bridge.readMux_half _ _ rfl, Bridge.readMux_half _ _ rfl, hRead]
    rfl

/-- The same of a state location. -/
theorem Bridge.captureRead_state_iData_congr (b : Bridge c) {low low' : Word c.lowW}
    (h : stateAdr c low' = stateAdr c low) (i : CycleIn c) :
    (b.captureRead true false low').iData i = (b.captureRead true false low).iData i := by
  have hHits : (b.captureRead true false low').engineWriteHits = (b.captureRead true false low).engineWriteHits := by
    funext w
    cases w <;> simp [Bridge.engineWriteHits, EngineWrite.hits, h]
  have hRead : (b.captureRead true false low').stateRead = (b.captureRead true false low).stateRead :=
    congrArg b.stateWord h
  refine Bridge.iData_congr rfl ?_ ?_ rfl
  · simp [Bridge.responseOpen, hHits]
  · rw [Bridge.readMux_exposed _ _ rfl rfl, Bridge.readMux_exposed _ _ rfl rfl, hRead]

/-- Settles O10: a write and a response reach a memory only through its port, which takes the address bits of its own width
(R65, R66). -/
theorem addressesAlias : Obligations.AddressesAlias := by
  intro s a a' d
  refine ⟨fun hSame => ?_, fun hSame => ?_⟩
  · have hPort := coeffAdr_lowField_congr (c := s.cfg) hSame
    refine ⟨?_, ?_, _, _, rfl, rfl, fun i _ => s.br.captureRead_coeff_iData_congr false hPort i⟩
    · simp only [exec, execWrcl, hPort]
    · simp only [exec, execWrch, hPort]
  · have hPort := stateAdr_lowField_congr (c := s.cfg) hSame
    refine ⟨?_, _, _, rfl, rfl, fun i _ => s.br.captureRead_state_iData_congr hPort i⟩
    simp only [exec, execWrst, hPort]

/-- R165, R166: in a cycle without reset or engine write, a pending read that met no engine write is answered by the
multiplexer. -/
theorem Bridge.outputs_iData_of_plain (b : Bridge c) {i : CycleIn c} (hPlain : i.Plain) (hPending : b.rdPending = true)
    (hAlone : b.rdContended = false) : (b.outputs i).iData = b.readMux i.done := by
  obtain ⟨hRst, hEngine⟩ := hPlain
  have hStb : b.iStb i = true := (b.outputs_iStb_of_not_rst hRst).trans hPending
  exact (b.iData_of_noEngine i hEngine hAlone).trans (if_pos hStb)

/-! The operations of the memory bus -/

/-- Settles O11: NOP is the clearing of the flag (R140). -/
theorem nopCompletes : Obligations.NopCompletes := fun _ =>
  ⟨_, rfl, rfl, ⟨rfl, rfl, rfl, rfl⟩, ⟨rfl, rfl, rfl⟩, rfl, fun _ => rfl, fun _ => rfl, rfl, rfl, rfl, rfl⟩

theorem Bridge.lowHalf_coeffWrite (b : Bridge c) (a x : Word c.caw) (v : Word (c.wCoeff + c.wCoeff)) (en : Word 2) :
    lowHalf ((b.coeffWrite a v en).coeffWord x) =
      if x = a ∧ en.getLsbD 0 = true then lowHalf v else lowHalf (b.coeffWord x) := by
  rw [b.coeffWrite_coeffWord]
  by_cases hx : x = a
  · subst hx
    simp [lowHalf_mergeHalves]
  · simp [hx]

theorem Bridge.highHalf_coeffWrite (b : Bridge c) (a x : Word c.caw) (v : Word (c.wCoeff + c.wCoeff)) (en : Word 2) :
    highHalf ((b.coeffWrite a v en).coeffWord x) =
      if x = a ∧ en.getLsbD 1 = true then highHalf v else highHalf (b.coeffWord x) := by
  rw [b.coeffWrite_coeffWord]
  by_cases hx : x = a
  · subst hx
    simp [highHalf_mergeHalves]
  · simp [hx]

/-- Settles O12: the enable of the low half alone is driven, with the data word in both halves of the write data (R142). -/
theorem wrclCompletes : Obligations.WrclCompletes := by
  intro s a d
  refine ⟨_, rfl, fun x => ?_, fun x => ?_, rfl, ⟨rfl, rfl, rfl, rfl⟩, ⟨rfl, rfl, rfl⟩, rfl, fun _ => rfl, rfl, rfl, rfl, rfl⟩
  · simp [Bridge.lowHalf_coeffWrite, lowHalf_replicateData]
  · simp [Bridge.highHalf_coeffWrite]

/-- Settles O13: the enable of the high half alone is driven, with the data word in both halves of the write data (R143). -/
theorem wrchCompletes : Obligations.WrchCompletes := by
  intro s a d
  refine ⟨_, rfl, fun x => ?_, fun x => ?_, rfl, ⟨rfl, rfl, rfl, rfl⟩, ⟨rfl, rfl, rfl⟩, rfl, fun _ => rfl, rfl, rfl, rfl, rfl⟩
  · simp [Bridge.highHalf_coeffWrite, highHalf_replicateData]
  · simp [Bridge.lowHalf_coeffWrite]

/-- Settles O14: the whole word is replaced by the data word above a free hidden part (R69, R144). -/
theorem wrstCompletes : Obligations.WrstCompletes := by
  intro s a d
  refine ⟨_, rfl, ?_, fun x hx => ?_, rfl, ⟨rfl, rfl, rfl, rfl⟩, ⟨rfl, rfl, rfl⟩, rfl, fun _ => rfl, rfl, rfl, rfl, rfl⟩
  · simp [Bridge.stateWrite_stateWord, exposedPart_placeTop]
  · simp [Bridge.stateWrite_stateWord, hx]

/-- What a read request leaves alone: everything but what it captures. -/
theorem Bridge.captureRead_frame (b : Bridge c) (stateSel sel3 : Bool) (low : Word c.lowW) :
    SameConfig b (b.captureRead stateSel sel3 low) ∧ SameCtrl b (b.captureRead stateSel sel3 low) ∧
      SameCoeff b (b.captureRead stateSel sel3 low) ∧ SameState b (b.captureRead stateSel sel3 low) ∧
      SameRecord b (b.captureRead stateSel sel3 low) :=
  ⟨⟨rfl, rfl, rfl⟩, rfl, fun _ => rfl, fun _ => rfl, rfl, rfl, rfl, rfl⟩

/-- R164: a read request of one cycle raises the read strobe of the next. -/
theorem Bridge.captureRead_iStb (b : Bridge c) (stateSel sel3 : Bool) (low : Word c.lowW) (i : CycleIn c)
    (hRst : i.rst = false) : ((b.captureRead stateSel sel3 low).outputs i).iStb = true :=
  (b.captureRead stateSel sel3 low).outputs_iStb_of_not_rst hRst

/-- R165: the multiplexer answers a read request of the cycle before. -/
theorem Bridge.captureRead_iData (b : Bridge c) (stateSel sel3 : Bool) (low : Word c.lowW) (i : CycleIn c) (hPlain : i.Plain) :
    ((b.captureRead stateSel sel3 low).outputs i).iData = (b.captureRead stateSel sel3 low).readMux i.done :=
  (b.captureRead stateSel sel3 low).outputs_iData_of_plain hPlain rfl rfl

/-- Settles O15: with selects 0 and 0 the multiplexer takes the low half of the coefficient word (R165, R167). -/
theorem rdclCompletesAndResponds : Obligations.RdclCompletesAndResponds := by
  intro s a
  refine ⟨_, rfl, rfl, rfl, rfl, rfl, rfl, s.br.captureRead_iStb _ _ _, fun i hPlain => ?_, s.br.captureRead_frame _ _ _⟩
  exact (s.br.captureRead_iData _ _ _ i hPlain).trans (Bridge.readMux_half _ _ rfl)

/-- Settles O16: with selects 0 and 1 the multiplexer takes the high half of the coefficient word (R165, R168). -/
theorem rdchCompletesAndResponds : Obligations.RdchCompletesAndResponds := by
  intro s a
  refine ⟨_, rfl, rfl, rfl, rfl, rfl, rfl, s.br.captureRead_iStb _ _ _, fun i hPlain => ?_, s.br.captureRead_frame _ _ _⟩
  exact (s.br.captureRead_iData _ _ _ i hPlain).trans (Bridge.readMux_half _ _ rfl)

/-- Settles O17: with selects 1 and 0 the multiplexer takes the exposed part of the state word (R165, R169). -/
theorem rdstCompletesAndResponds : Obligations.RdstCompletesAndResponds := by
  intro s a
  refine ⟨_, rfl, rfl, rfl, rfl, rfl, rfl, s.br.captureRead_iStb _ _ _, fun i hPlain => ?_, s.br.captureRead_frame _ _ _⟩
  exact (s.br.captureRead_iData _ _ _ i hPlain).trans (Bridge.readMux_exposed _ _ rfl rfl)

/-- Settles O18: RDSTATUS is a read request with selects 1 and 1 (R182). -/
theorem rdstatusCompletes : Obligations.RdstatusCompletes := fun s _ =>
  ⟨_, rfl, rfl, rfl, rfl, rfl, rfl, s.br.captureRead_iStb _ _ _, s.br.captureRead_frame _ _ _⟩

/-- Settles O19: the bit waits in the hand-off buffer, from which an update point takes it (R181, R184, R185). -/
theorem wrcfgCompletes : Obligations.WrcfgCompletes := fun _ _ =>
  ⟨_, rfl, rfl, rfl, rfl, rfl, rfl, ⟨rfl, rfl, rfl, rfl⟩, rfl, fun _ => rfl, fun _ => rfl, rfl, rfl, rfl, rfl⟩

/-! The operations of a control bus -/

/-- Settles O20: an idle cycle of an existing channel answers the state it was given (R203). -/
theorem cnopCompletes : Obligations.CnopCompletes := fun s _ hCh =>
  ⟨s.br, exec_cnop_of_lt s hCh, rfl, ⟨rfl, rfl, rfl, rfl⟩, ⟨rfl, rfl, rfl⟩, rfl, fun _ => rfl, fun _ => rfl, rfl, rfl, rfl, rfl⟩

/-- Settles O21: the channel's word becomes the packed one, whose fields are disjoint (D6), and no other word is set (R201). -/
theorem wrctrlCompletes : Obligations.WrctrlCompletes := by
  intro s ch profile enIir enOut hCh
  refine ⟨_, exec_wrctrl_of_lt s hCh profile enIir enOut, fun k hk => ⟨fun hSame => ?_, fun hOther => ?_⟩, rfl,
    ⟨rfl, rfl, rfl, rfl⟩, ⟨rfl, rfl, rfl⟩, fun _ => rfl, fun _ => rfl, rfl, rfl, rfl, rfl⟩
  · subst hSame
    simp [ctrlProfile_packCtrl, ctrlEnIir_packCtrl, ctrlEnOut_packCtrl]
  · simp [Ne.symm hOther]

/-- Settles O22: both operations of a control bus ask first whether their channel exists. -/
theorem absentChannelRefused : Obligations.AbsentChannelRefused := fun _ _ _ _ _ hAbsent =>
  ⟨if_neg (Nat.not_lt.2 hAbsent), dif_neg (Nat.not_lt.2 hAbsent)⟩

/-! Two operations in a row -/

theorem runOps_pair {i j : Instr} {s t u : State} (hFirst : exec i s = .next t) (hSecond : exec j t = .next u) :
    runOps [i, j] s = .next u := by
  simp [runOps, hFirst, hSecond]

theorem eq_of_halves {w : Nat} {u v : Word (w + w)} (hHigh : highHalf u = highHalf v) (hLow : lowHalf u = lowHalf v) :
    u = v := by
  rw [← highHalf_append_lowHalf u, ← highHalf_append_lowHalf v, hHigh, hLow]

/-- Settles O23: each write sets its own half and keeps the other (R76), so after either order both halves of the word addressed
are the data of their writes, and every other word has the halves it had. -/
theorem halvesInEitherOrder : Obligations.HalvesInEitherOrder := by
  intro s a hi lo
  obtain ⟨bL, hExecL, hLowL, hHighL, -⟩ := wrclCompletes s a lo
  obtain ⟨b, hExec, hHigh, hLow, -⟩ := wrchCompletes ⟨s.cfg, bL⟩ a hi
  obtain ⟨bH, hExecH, hHighH, hLowH, -⟩ := wrchCompletes s a hi
  obtain ⟨b', hExec', hLow', hHigh', -⟩ := wrclCompletes ⟨s.cfg, bH⟩ a lo
  refine ⟨b, b', runOps_pair hExecL hExec, runOps_pair hExecH hExec', eq_of_halves ?_ ?_,
    fun x hx => eq_of_halves ?_ ?_, fun x => eq_of_halves ?_ ?_⟩
  · rw [hHigh, if_pos rfl, highHalf_append]
  · rw [hLow, hLowL, if_pos rfl, lowHalf_append]
  · rw [hHigh, if_neg hx, hHighL]
  · rw [hLow, hLowL, if_neg hx]
  · rw [hHigh', hHighH, hHigh, hHighL]
  · rw [hLow', hLowH, hLow, hLowL]

end Sys2Proof.Machine
end

section
/-! The memories (R49, R86): the canonical form, which every step keeps and which contents determine, and what the engine's
writes leave. -/

namespace Sys2Proof.Machine

/-! Contents determine a canonical memory -/

section
variable {w depth k : Nat} {v : Word w} {m m' : Memory w}

theorem Memory.wf_cons : Memory.wf depth ((k, v) :: m) ↔
    (∀ cell ∈ m, k < cell.1) ∧ k < depth ∧ v ≠ 0 ∧ m.wf depth := by
  simp only [Memory.wf, List.pairwise_cons, List.forall_mem_cons]
  tauto

@[simp] theorem Memory.read_cons_self : Memory.read ((k, v) :: m) k = v := if_pos rfl

theorem Memory.read_cons_of_ne {a : Nat} (h : k ≠ a) : Memory.read ((k, v) :: m) a = m.read a := if_neg h

/-- A cell that another memory reads alike does not lie below all of that memory's cells. -/
theorem Memory.not_forall_lt_of_read_eq (hv : v ≠ 0) (hRead : v = m'.read k) : ¬ ∀ cell ∈ m', k < cell.1 := fun hLow =>
  hv (hRead.trans (Memory.read_of_lt hLow))

/-- The lowest cells of two memories with the same contents are at one address: the lower one would be missing in the other. -/
theorem Memory.head_eq_of_read_eq {k' : Nat} {v' : Word w} (hm : Memory.wf depth ((k, v) :: m))
    (hm' : Memory.wf depth ((k', v') :: m')) (hRead : ∀ a, Memory.read ((k, v) :: m) a = Memory.read ((k', v') :: m') a) :
    k = k' := by
  obtain ⟨hRise, -, hv, -⟩ := Memory.wf_cons.1 hm
  obtain ⟨hRise', -, hv', -⟩ := Memory.wf_cons.1 hm'
  rcases lt_trichotomy k k' with hlt | heq | hgt
  · have hBelow : ∀ cell ∈ (k', v') :: m', k < cell.1 :=
      List.forall_mem_cons.2 ⟨hlt, fun cell hc => hlt.trans (hRise' cell hc)⟩
    exact absurd hBelow (Memory.not_forall_lt_of_read_eq hv (Memory.read_cons_self.symm.trans (hRead k)))
  · exact heq
  · have hBelow : ∀ cell ∈ (k, v) :: m, k' < cell.1 :=
      List.forall_mem_cons.2 ⟨hgt, fun cell hc => hgt.trans (hRise cell hc)⟩
    exact absurd hBelow (Memory.not_forall_lt_of_read_eq hv' (Memory.read_cons_self.symm.trans (hRead k').symm))

theorem Memory.eq_of_read_eq (hm : m.wf depth) (hm' : m'.wf depth) (hRead : ∀ a, m.read a = m'.read a) : m = m' := by
  induction m generalizing m' with
  | nil =>
    cases m' with
    | nil => rfl
    | cons cell' m' =>
      obtain ⟨-, -, hv', -⟩ := Memory.wf_cons.1 hm'
      exact absurd (Memory.read_cons_self.symm.trans (hRead cell'.1).symm) hv'
  | cons cell m ih =>
    cases m' with
    | nil =>
      obtain ⟨-, -, hv, -⟩ := Memory.wf_cons.1 hm
      exact absurd (Memory.read_cons_self.symm.trans (hRead cell.1)) hv
    | cons cell' m' =>
      obtain ⟨k, v⟩ := cell
      obtain ⟨k', v'⟩ := cell'
      obtain rfl : k = k' := Memory.head_eq_of_read_eq hm hm' hRead
      obtain rfl : v = v' := by simpa using hRead k
      obtain ⟨hRise, -, -, hTail⟩ := Memory.wf_cons.1 hm
      obtain ⟨hRise', -, -, hTail'⟩ := Memory.wf_cons.1 hm'
      have hRest : ∀ a, Memory.read m a = Memory.read m' a := fun a => by
        by_cases ha : k = a
        · subst ha
          rw [Memory.read_of_lt hRise, Memory.read_of_lt hRise']
        · simpa [Memory.read_cons_of_ne ha] using hRead a
      rw [ih hTail hTail' hRest]

end

/-- Settles O30: cell by cell, since the lowest cells of both must be at one address with one word. -/
theorem canonicalMemoriesEqualByReads : Obligations.CanonicalMemoriesEqualByReads := fun _ _ _ _ hm hm' hRead =>
  Memory.eq_of_read_eq hm hm' hRead

/-! Power-up (R52, R263) -/

theorem Bridge.powerUp_inv (c : Config) : (Bridge.powerUp c).Inv := ⟨Memory.nil_wf _, Memory.ofCells_wf _ _⟩

/-- Settles O29: a memory without cells, and one written from a list of cells, are canonical. -/
theorem powerUpMemoriesCanonical : Obligations.PowerUpMemoriesCanonical :=
  ⟨Bridge.powerUp_inv, Bridge.powerUp_inv _⟩

/-- Settles O33: the registers by definition, the state memory by the last listed pair that names an address. -/
theorem powerUpState : Obligations.PowerUpState := by
  refine ⟨fun c => ⟨rfl, rfl, rfl, rfl, rfl, rfl, rfl, fun k hk => Vector.getElem_replicate hk, fun _ => rfl, ?_, ?_⟩, rfl⟩
  · intro before after a w hInit hLast
    change (Memory.ofCells c.saw c.wState c.stateMemInit).read (BitVec.ofNat c.saw a).toNat = _
    rw [hInit, BitVec.toNat_ofNat]
    exact Memory.read_ofCells_listed _ _ _ _ _ hLast
  · exact fun x hUnlisted => Memory.read_ofCells_unlisted _ _ _ hUnlisted

variable {c : Config}

/-! Every step keeps the canonical form -/

/-- The invariant speaks of the memories alone. -/
theorem Bridge.Inv.of_sameMemories {b b' : Bridge c} (h : b.Inv) (hCoeff : b'.coeffMem = b.coeffMem)
    (hState : b'.stateMem = b.stateMem) : b'.Inv := by
  rwa [Bridge.Inv, hCoeff, hState]

/-- An operation of the memory bus writes at most one word, at an address that its port has cut to the memory's width. -/
theorem exec_decodeSmb_inv (b : Bridge c) (r : SmbReq c) :
    ∃ b', exec (decodeSmb c r) ⟨c, b⟩ = .next ⟨c, b'⟩ ∧ (b.Inv → b'.Inv) := by
  unfold decodeSmb
  split
  case h_1 | h_2 | h_3 | h_4 | h_5 | h_9 => exact ⟨_, rfl, fun h => h.of_sameMemories rfl rfl⟩
  case h_6 | h_7 => exact ⟨_, rfl, fun h => Bridge.Inv.coeffWrite (h.of_sameMemories rfl rfl) _ _ _⟩
  case h_8 => exact ⟨_, rfl, fun h => (Bridge.Inv.stateWrite (h.of_sameMemories rfl rfl) _ _).of_sameMemories rfl rfl⟩

theorem Bridge.Inv.closeCycle {b : Bridge c} (h : b.Inv) (tick : Bool) (ws : List EngineWrite) : (b.closeCycle tick ws).Inv :=
  (((h.updatePoint tick).noteContention ws).engineWrites ws).of_sameMemories rfl rfl

/-- A step answers a state of the same configuration, whose memories are canonical if those before it were (R7, R236). -/
theorem step_inv (s : State) : ∃ b' : Bridge s.cfg, step s = .next ⟨s.cfg, b'⟩ ∧ (s.Inv → b'.Inv) := by
  cases hRst : s.br.currentIn.rst with
  | true =>
    refine ⟨_, step_of_rst hRst, fun h => Bridge.Inv.engineWrites ?_ _⟩
    exact h.of_sameMemories rfl rfl
  | false =>
    obtain ⟨b', hExec, hKept⟩ := exec_decodeSmb_inv s.openCycle.br s.br.currentIn.smb
    refine ⟨_, step_of_exec_decodeSmb hRst hExec, fun h => Bridge.Inv.closeCycle ?_ _ _⟩
    exact (hKept (h.of_sameMemories rfl rfl)).of_sameMemories rfl rfl

/-- Settles O28: the operation of the memory bus, the engine's writes and a reset each keep both memories canonical, and the
rest of a cycle reaches neither. -/
theorem stepKeepsMemoriesCanonical : Obligations.StepKeepsMemoriesCanonical := by
  intro s t hInv hStep
  obtain ⟨b', hStep', hKept⟩ := step_inv s
  cases hStep.symm.trans hStep'
  exact hKept hInv

/-- Settles O31: a step answers a bridge of the configuration it was given. -/
theorem stepKeepsConfiguration : Obligations.StepKeepsConfiguration := by
  intro s t hStep
  obtain ⟨b', hStep', -⟩ := step_inv s
  cases hStep.symm.trans hStep'
  rfl

/-! The engine's writes (R86, R244) -/

/-- One engine write leaves every coefficient word that it does not name. -/
theorem Bridge.engineWrite_coeffWord (b : Bridge c) (w : EngineWrite) (x : Word c.caw)
    (h : ∀ a, w = .coeff a → a % 2 ^ c.caw ≠ x.toNat) : (b.engineWrite w).coeffWord x = b.coeffWord x := by
  cases w with
  | coeff a => exact b.engineWrite_coeff_coeffWord a x (h a rfl).symm
  | state a => exact b.engineWrite_state_coeffWord a x

/-- One engine write leaves every state word that it does not name. -/
theorem Bridge.engineWrite_stateWord (b : Bridge c) (w : EngineWrite) (x : Word c.saw)
    (h : ∀ a, w = .state a → a % 2 ^ c.saw ≠ x.toNat) : (b.engineWrite w).stateWord x = b.stateWord x := by
  cases w with
  | coeff a => exact b.engineWrite_coeff_stateWord a x
  | state a => exact b.engineWrite_state_stateWord a x (h a rfl).symm

theorem Bridge.engineWrites_coeffWord (b : Bridge c) (ws : List EngineWrite) (x : Word c.caw)
    (h : ∀ a, EngineWrite.coeff a ∈ ws → a % 2 ^ c.caw ≠ x.toNat) : (b.engineWrites ws).coeffWord x = b.coeffWord x := by
  induction ws generalizing b with
  | nil => rfl
  | cons w ws ih =>
    rw [Bridge.engineWrites, ih _ fun a ha => h a (List.mem_cons_of_mem _ ha)]
    exact b.engineWrite_coeffWord w x fun a ha => h a (ha ▸ List.mem_cons_self)

theorem Bridge.engineWrites_stateWord (b : Bridge c) (ws : List EngineWrite) (x : Word c.saw)
    (h : ∀ a, EngineWrite.state a ∈ ws → a % 2 ^ c.saw ≠ x.toNat) : (b.engineWrites ws).stateWord x = b.stateWord x := by
  induction ws generalizing b with
  | nil => rfl
  | cons w ws ih =>
    rw [Bridge.engineWrites, ih _ fun a ha => h a (List.mem_cons_of_mem _ ha)]
    exact b.engineWrite_stateWord w x fun a ha => h a (ha ▸ List.mem_cons_self)

/-- Settles O60: by induction on the list, each write reaching one word and the count of draws. -/
theorem engineWritesOnlyWhatItNames : Obligations.EngineWritesOnlyWhatItNames := fun _ b ws =>
  ⟨b.engineWrites_rdPending ws,
    ⟨b.engineWrites_rdStateSel ws, b.engineWrites_rdSel3 ws, b.engineWrites_rdAdr ws, b.engineWrites_rdContended ws⟩,
    ⟨b.engineWrites_config ws, b.engineWrites_cfgPendValid ws, b.engineWrites_cfgPendBit ws⟩, b.engineWrites_ctrlWord ws,
    ⟨b.engineWrites_inputs ws, b.engineWrites_outs ws, b.engineWrites_time ws, b.engineWrites_idleEngine ws⟩,
    b.engineWrites_coeffWord ws, b.engineWrites_stateWord ws⟩

/-- Settles O35: a reset cycle performs no operation, and after the registers are reset only the engine writes (R260 to R263). -/
theorem resetWins : Obligations.ResetWins := by
  intro s hRst
  refine ⟨_, step_of_rst hRst, by simp, by simp, by simp, by simp, by simp, by simp, by simp, by simp, by simp, by simp,
    fun x hKept => ?_, fun x hKept => ?_⟩
  · exact Bridge.engineWrites_coeffWord _ _ x hKept
  · exact Bridge.engineWrites_stateWord _ _ x hKept

end Sys2Proof.Machine
end

section
/-! The outputs of a cycle (R216): the write ports, the read-data multiplexer, the status value and the control channels, each as
a function of the registers and of the cycle's inputs. -/

namespace Sys2Proof.Machine

variable {c : Config}

/-! The write ports (R141, R147, R183) -/

@[simp] theorem Bridge.outputs_stateWe (b : Bridge c) (i : CycleIn c) : (b.outputs i).stateWe = i.stateWe := rfl
@[simp] theorem Bridge.outputs_wrCfg (b : Bridge c) (i : CycleIn c) : (b.outputs i).wrCfg = i.wrCfg := rfl

theorem CycleIn.wr_eq (i : CycleIn c) : i.wr = (i.smb.stb && i.smb.we && !i.rst) := by
  rw [CycleIn.wr, CycleIn.strobe, Bool.and_right_comm]

theorem CycleIn.coeffWe_low (i : CycleIn c) : i.coeffWe.getLsbD 0 = (i.wr && !i.smb.stateSel && !i.smb.sel3) := by
  rw [i.coeffWe_eq]
  cases i.wr && !i.smb.stateSel <;> cases i.smb.sel3 <;> rfl

theorem CycleIn.coeffWe_high (i : CycleIn c) : i.coeffWe.getLsbD 1 = (i.wr && !i.smb.stateSel && i.smb.sel3) := by
  rw [i.coeffWe_eq]
  cases i.wr && !i.smb.stateSel <;> cases i.smb.sel3 <;> rfl

/-- Settles O38: the four targets are one per value of the two lower select bits, each under the write strobe (R147), which is 0
in reset (R262). -/
theorem atMostOneWriteTarget : Obligations.AtMostOneWriteTarget := by
  intro c b i o
  rw [← i.wr_eq, b.outputs_coeffWe, i.coeffWe_low, i.coeffWe_high, b.outputs_stateWe, b.outputs_wrCfg, CycleIn.stateWe,
    CycleIn.wrCfg]
  cases i.wr <;> cases i.smb.stateSel <;> cases i.smb.sel3 <;> rfl

theorem SmbReq.low_toNat (r : SmbReq c) : r.low.toNat = r.address.toNat % 2 ^ c.lowW := BitVec.toNat_setWidth ..

/-- Settles O39: none of the five lines reads the strobe or a select bit (R67). -/
theorem portsFollowTheBus : Obligations.PortsFollowTheBus := by
  intro c b i o
  refine ⟨?_, ?_, lowHalf_replicateData _, highHalf_replicateData _, exposedPart_placeTop _ _ _⟩
  · exact (coeffAdr_toNat _).trans (by rw [SmbReq.low_toNat, Nat.mod_mod_of_dvd _ (pow_dvd_pow 2 c.caw_le_lowW)])
  · exact (stateAdr_toNat _).trans (by rw [SmbReq.low_toNat, Nat.mod_mod_of_dvd _ (pow_dvd_pow 2 c.saw_le_lowW)])

/-! The read data (R165, R189) -/

/-- R165, R189: outside reset a pending status read is answered by the two flags, whatever the engine writes. -/
theorem Bridge.outputs_iData_status (b : Bridge c) {i : CycleIn c} (hRst : i.rst = false) (hPending : b.rdPending = true)
    (hState : b.rdStateSel = true) (hSel : b.rdSel3 = true) : (b.outputs i).iData = statusResponse c i.done b.config := by
  have hStb : b.iStb i = true := (b.outputs_iStb_of_not_rst hRst).trans hPending
  calc b.iData i
    _ = b.readMux i.done := (b.iData_status i hState hSel).trans (if_pos hStb)
    _ = statusResponse c i.done b.config := b.readMux_status _ hState hSel

/-- Settles O40: a pending read that no engine write meets is answered by the multiplexer, a status read always (R165). -/
theorem readDataMultiplexer : Obligations.ReadDataMultiplexer := by
  intro c b i hRst hPending o
  refine ⟨b.outputs_iData_status hRst hPending, fun hEngine hAlone hState hSel => ?_, fun hEngine hAlone hState hSel => ?_,
    fun hEngine hAlone hState hSel => ?_⟩
  · exact (b.outputs_iData_of_plain ⟨hRst, hEngine⟩ hPending hAlone).trans (b.readMux_exposed _ hState hSel)
  · rw [b.outputs_iData_of_plain ⟨hRst, hEngine⟩ hPending hAlone, b.readMux_half _ hState, hSel]
    rfl
  · rw [b.outputs_iData_of_plain ⟨hRst, hEngine⟩ hPending hAlone, b.readMux_half _ hState, hSel]
    rfl

/-- A status response has `start` at its bit, `done` at its bit, and 0 elsewhere (R113, R114); the two bits are distinct (D3). -/
theorem statusResponse_bit (done start : Bool) (k : Nat) : (statusResponse c done start).getLsbD k =
    if k = c.statusStartBit then start else if k = c.statusDoneBit then done else false := by
  obtain ⟨hDistinct, -, -⟩ := c.statusBitsFit
  rw [getLsbD_statusResponse]
  by_cases hStart : k = c.statusStartBit
  · subst hStart
    simp [hDistinct]
  · simp [hStart, Bool.and_comm]

/-- Settles O42: `start` and `done` are the two bits of the status value (R189), and the two shifted flags of a response do not
meet. -/
theorem statusBits : Obligations.StatusBits := by
  intro c b i
  refine ⟨?_, ?_, statusResponse_bit⟩
  · change (statusValue i.done b.config).getLsbD 0 = b.config
    cases i.done <;> cases b.config <;> rfl
  · change (statusValue i.done b.config).getLsbD 1 = i.done
    cases i.done <;> cases b.config <;> rfl

/-- Settles O43: by the captured selects; the multiplexer takes a coefficient half, an exposed part or the flags (R63, R189). -/
theorem responsesHideHiddenParts : Obligations.ResponsesHideHiddenParts := by
  rintro c b b' done ⟨hState, hSel, hAdr, -⟩ hConfig
  have hStatus : b.rdStateSel = true → b.rdSel3 = true → b'.readMux done = b.readMux done := fun hOn hOn' => by
    rw [b.readMux_status _ hOn hOn', b'.readMux_status _ (hState.trans hOn) (hSel.trans hOn'), hConfig]
  refine ⟨fun hExposed hCoeff => ?_, hStatus⟩
  cases hSt : b.rdStateSel with
  | false =>
    rw [b.readMux_half _ hSt, b'.readMux_half _ (hState.trans hSt), Bridge.coeffRead, Bridge.coeffRead, hSel, hAdr, hCoeff]
  | true =>
    cases hS3 : b.rdSel3 with
    | false =>
      rw [b.readMux_exposed _ hSt hS3, b'.readMux_exposed _ (hState.trans hSt) (hSel.trans hS3), Bridge.stateRead,
        Bridge.stateRead, hAdr, hExposed]
    | true => exact hStatus hSt hS3

/-! The control channels (R44, R45) -/

/-- Settles O56: a channel's outputs are its own strobe beside the fields of its own word (R202). -/
theorem controlStrobeInRequestCycle : Obligations.ControlStrobeInRequestCycle := by
  intro c b i k hk
  rw [b.getElem_outputs_channels i k hk]
  exact ⟨channelOut_stb _ _, channelOut_profile _ _, channelOut_enIir _ _, channelOut_enOut _ _⟩

/-- A cycle without a strobe drives no write-enable. -/
theorem CycleIn.wr_of_not_stb {i : CycleIn c} (h : i.smb.stb = false) : i.wr = false := by
  rw [i.wr_eq, h]; rfl

/-- Settles O34: reset leaves no pending read, `config` 0 and control words of 0, and an idle cycle drives no strobe (R53). -/
theorem outputsAfterReset : Obligations.OutputsAfterReset := by
  intro c b i hStb hIdle o
  have hWr : i.wr = false := CycleIn.wr_of_not_stb hStb
  have hCoeff : i.coeffWe = 0 := by rw [i.coeffWe_eq, hWr]; rfl
  have hState : i.stateWe = false := by rw [CycleIn.stateWe, hWr]; rfl
  refine ⟨rfl, rfl, hCoeff, hState, rfl, fun k hk => ?_⟩
  obtain ⟨hChStb, hProfile, hEnIir, hEnOut⟩ := controlStrobeInRequestCycle c b.resetRegs i k hk
  rw [hChStb, hProfile, hEnIir, hEnOut]
  simp [hIdle k hk, ctrlProfile, ctrlEnIir, ctrlEnOut]

end Sys2Proof.Machine
end

section
/-! The whole cycle as the listing of R217: one operation of the memory bus does what the port signals of its cycle say, and the
clock edge completes the listing. -/

namespace Sys2Proof.Machine

variable {c : Config}

/-- Settles O24: a cycle without reset is its opening, its operations and its closing (R215, R217). -/
theorem stepRunsDecodedOperations : Obligations.StepRunsDecodedOperations := by
  intro s t u hRst hFirst hRest
  have hOps : runOps (cycleOps s.br.currentIn) s.openCycle = .next u := by
    simp only [cycleOps, runOps, hFirst]
    exact hRest
  simp [step, hRst, hOps]

/-! The operation of the memory bus -/

/-- What the memory-bus operation of a cycle does, as the port signals say it (R141, R161, R162, R183, R184). -/
def Bridge.afterRequest (b : Bridge c) (i : CycleIn c) : Bridge c :=
  { b with
    rdPending := i.rd
    rdStateSel := if i.rd then i.smb.stateSel else b.rdStateSel
    rdSel3 := if i.rd then i.smb.sel3 else b.rdSel3
    rdAdr := if i.rd then i.smb.low else b.rdAdr
    rdContended := if i.rd then false else b.rdContended
    cfgPendValid := if i.wrCfg then true else b.cfgPendValid
    cfgPendBit := if i.wrCfg then configBit c i.smb.data else b.cfgPendBit
    coeffMem := if i.coeffWe = 0 then b.coeffMem else (b.coeffPortWrite i).coeffMem
    stateMem := if i.stateWe then (b.stateWrite (stateAdr c i.smb.low) (placeTop c i.smb.data b.freeHidden)).stateMem
      else b.stateMem
    draws := if i.stateWe then b.draws + 1 else b.draws }

theorem CycleIn.rd_eq (i : CycleIn c) : i.rd = (i.smb.stb && !i.smb.we && !i.rst) := by
  rw [CycleIn.rd, CycleIn.strobe, Bool.and_right_comm]

/-- Without reset the operation that the request decodes to does what the port signals of the cycle say. -/
theorem exec_decodeSmb (b : Bridge c) {i : CycleIn c} (hRst : i.rst = false) :
    exec (decodeSmb c i.smb) ⟨c, b⟩ = .next ⟨c, b.afterRequest i⟩ := by
  have hRd := i.rd_eq
  have hWr := i.wr_eq
  have hCoeff := i.coeffWe_eq
  have hState : i.stateWe = (i.wr && i.smb.stateSel && !i.smb.sel3) := rfl
  have hCfg : i.wrCfg = (i.wr && i.smb.stateSel && i.smb.sel3) := rfl
  unfold decodeSmb
  split
  case h_1 hStb =>
    -- NOP: no signal is driven.
    simp only [hStb, Bool.false_and] at hRd hWr
    simp [hWr] at hCoeff hState hCfg
    simp [Bridge.afterRequest, hRd, hCoeff, hState, hCfg, exec, execNop, State.become, Bridge.clearPending]
  case h_2 hStb hWe hSt hSel | h_3 hStb hWe hSt hSel | h_4 hStb hWe hSt hSel | h_5 hStb hWe hSt hSel =>
    -- The reads: `rd` alone is driven, and the selects of the request are those captured.
    simp only [hStb, hWe, hRst, Bool.true_and, Bool.not_false, Bool.and_false, Bool.false_and] at hRd hWr
    simp [hWr] at hCoeff hState hCfg
    simp [Bridge.afterRequest, hRd, hCoeff, hState, hCfg, hSt, hSel, exec, execRdcl, execRdch, execRdst, execRdstatus,
      State.become, Bridge.captureRead]
  case h_6 hStb hWe hSt hSel | h_7 hStb hWe hSt hSel =>
    -- WRCL and WRCH: the enable of their half is driven.
    simp only [hStb, hWe, hRst, Bool.true_and, Bool.not_false, Bool.not_true, Bool.and_false, Bool.false_and] at hRd hWr
    simp [hWr, hSt, hSel] at hCoeff hState hCfg
    simp [Bridge.afterRequest, hRd, hCoeff, hState, hCfg, exec, execWrcl, execWrch, State.become, Bridge.clearPending,
      Bridge.coeffPortWrite, Bridge.coeffWrite]
    rfl
  case h_8 hStb hWe hSt hSel | h_9 hStb hWe hSt hSel =>
    -- WRST and WRCFG: `state_we` or `wr_cfg` is driven.
    simp only [hStb, hWe, hRst, Bool.true_and, Bool.not_false, Bool.not_true, Bool.and_false, Bool.false_and] at hRd hWr
    simp [hWr, hSt, hSel] at hCoeff hState hCfg
    simp [Bridge.afterRequest, hRd, hCoeff, hState, hCfg, exec, execWrst, execWrcfg, State.become, Bridge.clearPending,
      Bridge.stateWrite, Bridge.handOff, Bridge.draw]

/-! The clock edge -/

/-- The listing of R217 is the request of the memory bus and the loads of the control words on the opened cycle, then the update
point and the note of contention: by whether the cycle ends with an update point and whether it holds a read. -/
theorem Bridge.listing_eq (b : Bridge c) (i : CycleIn c) :
    (({ ((b.yieldOutputs (b.outputs i)).takeInput).afterRequest i with
        ctrlWord := loadWords 0 i.ccr.toList b.ctrlWord } : Bridge c).updatePoint i.cfgTick).noteContention i.engine =
      b.listing i (b.outputs i) := by
  rw [loadWords_all]
  unfold Bridge.updatePoint Bridge.noteContention Bridge.afterRequest Bridge.listing
  cases i.cfgTick <;> cases i.rd <;> rfl

/-- The bridge after a cycle without reset: the listing of R217, the engine's writes (R86) and a fresh draw. -/
def Bridge.afterCycle (b : Bridge c) : Bridge c :=
  ((b.listing b.currentIn (b.outputs b.currentIn)).engineWrites b.currentIn.engine).draw

/-- R216, R217: what a step without reset answers. -/
theorem step_of_not_rst {s : State} (hRst : s.br.currentIn.rst = false) : step s = .next ⟨s.cfg, s.br.afterCycle⟩ := by
  rw [step_of_exec_decodeSmb hRst (exec_decodeSmb s.openCycle.br hRst), Bridge.afterCycle, ← Bridge.listing_eq]
  rfl

/-- Settles O26: the operation of the memory bus does what the port signals say, whichever it is, and so does the rest of the
cycle. -/
theorem stepIsTheListing : Obligations.StepIsTheListing := fun _ hRst => step_of_not_rst hRst

/-! The fields after a cycle (R217) -/

section
variable (b : Bridge c)

@[simp] theorem Bridge.afterCycle_inputs : b.afterCycle.inputs = b.inputs.tail := by simp [Bridge.afterCycle, Bridge.listing]
@[simp] theorem Bridge.afterCycle_outs : b.afterCycle.outs = b.outputs b.currentIn :: b.outs := by
  simp [Bridge.afterCycle, Bridge.listing]
@[simp] theorem Bridge.afterCycle_time : b.afterCycle.time = b.time + 1 := by simp [Bridge.afterCycle, Bridge.listing]
@[simp] theorem Bridge.afterCycle_rdPending : b.afterCycle.rdPending = b.currentIn.rd := by
  simp [Bridge.afterCycle, Bridge.listing]
@[simp] theorem Bridge.afterCycle_rdStateSel :
    b.afterCycle.rdStateSel = if b.currentIn.rd then b.currentIn.smb.stateSel else b.rdStateSel := by
  simp [Bridge.afterCycle, Bridge.listing]
@[simp] theorem Bridge.afterCycle_rdSel3 :
    b.afterCycle.rdSel3 = if b.currentIn.rd then b.currentIn.smb.sel3 else b.rdSel3 := by
  simp [Bridge.afterCycle, Bridge.listing]
@[simp] theorem Bridge.afterCycle_rdAdr :
    b.afterCycle.rdAdr = if b.currentIn.rd then b.currentIn.smb.low else b.rdAdr := by
  simp [Bridge.afterCycle, Bridge.listing]
@[simp] theorem Bridge.afterCycle_rdContended : b.afterCycle.rdContended =
    if b.currentIn.rd then b.currentIn.engine.any (EngineWrite.hits c b.currentIn.smb.stateSel b.currentIn.smb.sel3
      b.currentIn.smb.low) else b.rdContended := by
  simp [Bridge.afterCycle, Bridge.listing]
@[simp] theorem Bridge.afterCycle_ctrlWord : b.afterCycle.ctrlWord =
    Vector.zipWith (fun r v => if r.stb then r.data else v) b.currentIn.ccr b.ctrlWord := by
  simp [Bridge.afterCycle, Bridge.listing]

/-! The hand-off into the configuration domain (R184, R185) -/

theorem handOffAfter_fst (p : Bool × Bool) (i : CycleIn c) : (handOffAfter p i).1 = if i.wrCfg then true else p.1 := by
  unfold handOffAfter; split <;> rfl

theorem handOffAfter_snd (p : Bool × Bool) (i : CycleIn c) :
    (handOffAfter p i).2 = if i.wrCfg then configBit c i.smb.data else p.2 := by
  unfold handOffAfter; split <;> rfl

/-- The hand-off buffer, whether a bit waits and which. -/
def Bridge.waiting : Bool × Bool := (b.cfgPendValid, b.cfgPendBit)

/-- R185: an update point takes the bit that waits, a WRCFG of the same cycle included. -/
theorem Bridge.afterCycle_config : b.afterCycle.config =
    if b.currentIn.cfgTick then (if (handOffAfter b.waiting b.currentIn).1 then (handOffAfter b.waiting b.currentIn).2
      else b.config) else b.config := by
  rw [handOffAfter_fst, handOffAfter_snd]
  simp only [Bridge.afterCycle, Bridge.draw_config, Bridge.engineWrites_config]
  rfl

theorem Bridge.afterCycle_config_of_tick (hTick : b.currentIn.cfgTick = true) : b.afterCycle.config =
    if (handOffAfter b.waiting b.currentIn).1 then (handOffAfter b.waiting b.currentIn).2 else b.config := by
  rw [b.afterCycle_config, if_pos hTick]

theorem Bridge.afterCycle_config_of_not_tick (hTick : b.currentIn.cfgTick = false) : b.afterCycle.config = b.config := by
  rw [b.afterCycle_config, hTick]
  rfl

theorem Bridge.afterCycle_cfgPendValid : b.afterCycle.cfgPendValid =
    if b.currentIn.cfgTick then false else (handOffAfter b.waiting b.currentIn).1 := by
  rw [handOffAfter_fst]
  simp only [Bridge.afterCycle, Bridge.draw_cfgPendValid, Bridge.engineWrites_cfgPendValid]
  rfl

theorem Bridge.afterCycle_cfgPendValid_of_tick (hTick : b.currentIn.cfgTick = true) : b.afterCycle.cfgPendValid = false := by
  rw [b.afterCycle_cfgPendValid, if_pos hTick]

theorem Bridge.afterCycle_cfgPendBit : b.afterCycle.cfgPendBit = (handOffAfter b.waiting b.currentIn).2 := by
  rw [handOffAfter_snd]
  simp only [Bridge.afterCycle, Bridge.draw_cfgPendBit, Bridge.engineWrites_cfgPendBit]
  rfl

/-- R184, R186: without an update point the buffer goes on, with the bit of a WRCFG of this cycle over what waited. -/
theorem Bridge.afterCycle_waiting_of_not_tick (hTick : b.currentIn.cfgTick = false) :
    b.afterCycle.waiting = handOffAfter b.waiting b.currentIn := by
  rw [Bridge.waiting, b.afterCycle_cfgPendValid, b.afterCycle_cfgPendBit, hTick]
  rfl

/-! The memories: the engine's writes on what the write ports leave (R68, R69, R86) -/

/-- A coefficient word that the engine does not name is the one the port signals leave. -/
theorem Bridge.afterCycle_coeffWord (x : Word c.caw)
    (h : ∀ a, EngineWrite.coeff a ∈ b.currentIn.engine → a % 2 ^ c.caw ≠ x.toNat) :
    b.afterCycle.coeffWord x = (b.coeffPortWrite b.currentIn).coeffWord x := by
  have hListing : (b.listing b.currentIn (b.outputs b.currentIn)).coeffMem =
      if b.currentIn.coeffWe = 0 then b.coeffMem else (b.coeffPortWrite b.currentIn).coeffMem := rfl
  rw [Bridge.afterCycle, Bridge.draw_coeffWord, Bridge.engineWrites_coeffWord _ _ x h, Bridge.coeffWord, hListing]
  split_ifs with hNone
  · exact b.coeffPortWrite_sameCoeff hNone x
  · rfl

/-- A state word that the engine does not name is the one the port signals leave. -/
theorem Bridge.afterCycle_stateWord (x : Word c.saw)
    (h : ∀ a, EngineWrite.state a ∈ b.currentIn.engine → a % 2 ^ c.saw ≠ x.toNat) :
    b.afterCycle.stateWord x = if b.currentIn.stateWe = true ∧ x = stateAdr c b.currentIn.smb.low then
      placeTop c b.currentIn.smb.data b.freeHidden else b.stateWord x := by
  have hListing : (b.listing b.currentIn (b.outputs b.currentIn)).stateMem = if b.currentIn.stateWe then
      (b.stateWrite (stateAdr c b.currentIn.smb.low) (placeTop c b.currentIn.smb.data b.freeHidden)).stateMem
      else b.stateMem := rfl
  rw [Bridge.afterCycle, Bridge.draw_stateWord, Bridge.engineWrites_stateWord _ _ x h, Bridge.stateWord, hListing]
  cases b.currentIn.stateWe with
  | false => simp [Bridge.stateWord]
  | true =>
    simp only [true_and]
    exact b.stateWrite_stateWord _ x _

end

/-- No location is named by the engine in a plain cycle. -/
theorem CycleIn.Plain.coeff_not_named {i : CycleIn c} (h : i.Plain) (x : Word c.caw) :
    ∀ a, EngineWrite.coeff a ∈ i.engine → a % 2 ^ c.caw ≠ x.toNat := by
  simp [h.2]

theorem CycleIn.Plain.state_not_named {i : CycleIn c} (h : i.Plain) (x : Word c.saw) :
    ∀ a, EngineWrite.state a ∈ i.engine → a % 2 ^ c.saw ≠ x.toNat := by
  simp [h.2]

/-- Settles O32: what a plain cycle does to the memories is the write of its ports, which leaves a word without its enable or
at another address (R68, R69, R71). -/
theorem memoriesChangeOnlyByWrites : Obligations.MemoriesChangeOnlyByWrites := by
  intro s hPlain
  refine ⟨_, step_of_not_rst hPlain.1, fun x hKept => ?_, fun x hKept => ?_⟩
  · rw [s.br.afterCycle_coeffWord x (hPlain.coeff_not_named x)]
    rcases hKept with hNone | hOther
    · exact (s.br.coeffPortWrite_sameCoeff hNone x).symm
    · rw [Bridge.coeffPortWrite, Bridge.coeffWrite_coeffWord, if_neg hOther]
  · rw [s.br.afterCycle_stateWord x (hPlain.state_not_named x), if_neg]
    rintro ⟨hWe, hAddressed⟩
    rcases hKept with hNone | hOther
    · exact absurd (hNone.symm.trans hWe) (by decide)
    · exact hOther hAddressed

/-- Settles O57: the operations of the control buses load every channel with a strobe, and only those (R200, R203). -/
theorem controlWordsLoad : Obligations.ControlWordsLoad := fun _ hRst => step_ctrlWord hRst

/-! Operations on different buses (R219) -/

/-- An operation of the memory bus neither reads nor writes a control word. -/
theorem exec_decodeSmb_setCtrl (b : Bridge c) (r : SmbReq c) : ∃ b', exec (decodeSmb c r) ⟨c, b⟩ = .next ⟨c, b'⟩ ∧
    b'.ctrlWord = b.ctrlWord ∧
    ∀ v, exec (decodeSmb c r) ⟨c, { b with ctrlWord := v }⟩ = .next ⟨c, { b' with ctrlWord := v }⟩ := by
  unfold decodeSmb
  split
  case h_1 | h_2 | h_3 | h_4 | h_5 | h_6 | h_7 | h_8 | h_9 => exact ⟨_, rfl, rfl, fun _ => rfl⟩

/-- The loads of two channels reach different words. -/
theorem loadWords_comm {k j : Nat} (h : k ≠ j) (p q : CcrReq c) (v : Vector (Word c.wCtrl) c.nCh) :
    loadWords k [p] (loadWords j [q] v) = loadWords j [q] (loadWords k [p] v) := by
  simp only [loadWords]
  cases p.stb <;> cases q.stb <;> simp only [if_true, Bool.false_eq_true, if_false]
  apply Vector.ext
  intro m hm
  simp only [Vector.getElem_setIfInBounds]
  split_ifs with hk hj
  · exact absurd (hk.trans hj.symm) h
  all_goals rfl

/-- Settles O27: the operations of a control bus change its control word alone, which no operation of another bus reads. -/
theorem busesCommute : Obligations.BusesCommute := by
  intro s r k j p q hk hj
  refine ⟨?_, fun hNe => ?_⟩
  · obtain ⟨b', hExec, hKept, hLoaded⟩ := exec_decodeSmb_setCtrl s.br r
    refine ⟨_, runOps_pair hExec (exec_decodeCcr b' k hk p), ?_⟩
    rw [hKept]
    exact runOps_pair (exec_decodeCcr s.br k hk p) (hLoaded _)
  · refine ⟨_, runOps_pair (exec_decodeCcr s.br k hk p) (exec_decodeCcr _ j hj q), ?_⟩
    refine (runOps_pair (exec_decodeCcr s.br j hj q) (exec_decodeCcr _ k hk p)).trans ?_
    exact congrArg (fun v => s.become { s.br with ctrlWord := v }) (loadWords_comm hNe p q s.br.ctrlWord)

end Sys2Proof.Machine
end

section
/-! Runs over listed cycles: each step takes the next cycle of the list, and what every cycle keeps holds after the run. -/

namespace Sys2Proof.Machine

variable {c : Config}

/-- A listed cycle without reset: what the step answers, and which cycles are still to come. -/
theorem step_listed {b : Bridge c} {i : CycleIn c} {rest : List (CycleIn c)} (hIn : b.inputs = i :: rest) (hRst : i.rst = false) :
    b.currentIn = i ∧ step ⟨c, b⟩ = .next ⟨c, b.afterCycle⟩ ∧ b.afterCycle.inputs = rest := by
  have hCur : b.currentIn = i := b.currentIn_of_inputs hIn
  have hNoRst : b.currentIn.rst = false := by rw [hCur, hRst]
  exact ⟨hCur, step_of_not_rst hNoRst, by rw [b.afterCycle_inputs, hIn, List.tail_cons]⟩

theorem reaches_one {s t : State} (h : step s = .next t) : Reaches 1 s t := reaches_succ h (reaches_zero t)

theorem reaches_snoc {k : Nat} {s t u : State} (h : Reaches k s t) (h' : step t = .next u) : Reaches (k + 1) s u :=
  reaches_add h (reaches_one h')

/-- A property of the bridge and of a value that each cycle folds on: it holds after a run of listed cycles, with the value folded
over them all. -/
theorem reaches_foldl {β : Type} (f : β → CycleIn c → β) (P : β → Bridge c → Prop) {mid rest : List (CycleIn c)} {x : β}
    {b : Bridge c} (hIn : b.inputs = mid ++ rest) (hRst : ∀ i ∈ mid, i.rst = false) (hStart : P x b)
    (hCycle : ∀ x b, b.currentIn ∈ mid → P x b → P (f x b.currentIn) b.afterCycle) :
    ∃ b', Reaches mid.length ⟨c, b⟩ ⟨c, b'⟩ ∧ b'.inputs = rest ∧ P (mid.foldl f x) b' := by
  induction mid generalizing x b with
  | nil => exact ⟨b, reaches_zero _, hIn, hStart⟩
  | cons i mid ih =>
    obtain ⟨hCur, hStep, hRest⟩ := step_listed hIn (hRst i List.mem_cons_self)
    have hNext : P (f x i) b.afterCycle := by
      have := hCycle x b (hCur ▸ List.mem_cons_self) hStart
      rwa [hCur] at this
    obtain ⟨b', hReach, hIn', hEnd⟩ := ih hRest (fun j hj => hRst j (List.mem_cons_of_mem _ hj)) hNext
      fun x b hMem => hCycle x b (List.mem_cons_of_mem _ hMem)
    exact ⟨b', reaches_succ hStep hReach, hIn', hEnd⟩

/-- A property of the bridge that each cycle of a list keeps holds after a run of them. -/
theorem reaches_invariant (P : Bridge c → Prop) {mid rest : List (CycleIn c)} {b : Bridge c} (hIn : b.inputs = mid ++ rest)
    (hRst : ∀ i ∈ mid, i.rst = false) (hStart : P b) (hCycle : ∀ b, b.currentIn ∈ mid → P b → P b.afterCycle) :
    ∃ b', Reaches mid.length ⟨c, b⟩ ⟨c, b'⟩ ∧ b'.inputs = rest ∧ P b' :=
  reaches_foldl (fun _ _ => ()) (fun _ => P) (x := ()) hIn hRst hStart fun _ => hCycle

end Sys2Proof.Machine
end

section
/-! The configuration domain (R184 to R187, D12): a bit written waits in the hand-off buffer, the next one written replaces it,
and the next update point takes it. -/

namespace Sys2Proof.Machine

variable {c : Config}

theorem handOffAfter_of_wrCfg (p : Bool × Bool) {i : CycleIn c} (h : i.wrCfg = true) :
    handOffAfter p i = (true, configBit c i.smb.data) := if_pos h

theorem handOffAfter_of_not_wrCfg (p : Bool × Bool) {i : CycleIn c} (h : i.wrCfg = false) : handOffAfter p i = p := by
  simp [handOffAfter, h]

/-- R185: an update point takes the bit that waits after the cycle's own WRCFG. -/
theorem Bridge.afterCycle_of_tick (b : Bridge c) {v : Bool} (hTick : b.currentIn.cfgTick = true)
    (hWaits : handOffAfter b.waiting b.currentIn = (true, v)) :
    b.afterCycle.config = v ∧ b.afterCycle.cfgPendValid = false := by
  rw [b.afterCycle_config_of_tick hTick, hWaits]
  exact ⟨rfl, b.afterCycle_cfgPendValid_of_tick hTick⟩

/-- Settles O52: by whether the cycle ends with an update point and whether it holds a WRCFG (R185). -/
theorem configChangesOnlyAtUpdatePoint : Obligations.ConfigChangesOnlyAtUpdatePoint := by
  intro s hRst
  refine ⟨_, step_of_not_rst hRst, fun hChanged => ?_⟩
  cases hTick : s.br.currentIn.cfgTick with
  | false => exact absurd (s.br.afterCycle_config_of_not_tick hTick) hChanged
  | true =>
    have hTaken := s.br.afterCycle_config_of_tick hTick
    cases hWr : s.br.currentIn.wrCfg with
    | true =>
      rw [handOffAfter_of_wrCfg _ hWr] at hTaken
      exact ⟨rfl, .inl ⟨rfl, hTaken⟩⟩
    | false =>
      rw [handOffAfter_of_not_wrCfg _ hWr] at hTaken
      cases hValid : s.br.cfgPendValid with
      | true => exact ⟨rfl, .inr ⟨rfl, rfl, hTaken.trans (if_pos hValid)⟩⟩
      | false => exact absurd (hTaken.trans (by simp [Bridge.waiting, hValid])) hChanged

/-- Settles O53: the WRCFG of a cycle reaches the buffer before the cycle's update point takes it (R185). -/
theorem coincidentConfigWriteTakenDirectly : Obligations.CoincidentConfigWriteTakenDirectly := by
  intro s hRst hTick
  refine ⟨_, step_of_not_rst hRst, s.br.afterCycle_cfgPendValid_of_tick hTick, fun hWr => ?_, fun hNone hEmpty => ?_⟩
  · rw [s.br.afterCycle_config_of_tick hTick, handOffAfter_of_wrCfg _ hWr]
    rfl
  · rw [s.br.afterCycle_config_of_tick hTick, handOffAfter_of_not_wrCfg _ hNone]
    simp [Bridge.waiting, hEmpty]

/-- Settles O55: the buffer is folded over the cycles before the update point, `config` being kept in each (R185, R186), and the
update point takes what that cycle leaves in it. -/
theorem lastConfigWriteWins : Obligations.LastConfigWriteWins := by
  intro s T mid rest hIn hMid hRst hTick p
  obtain ⟨b, hReach, hIn', hWaiting, hConfig⟩ := reaches_foldl handOffAfter
    (fun p b => b.waiting = p ∧ b.config = s.br.config) hIn (fun i hi => (hMid i hi).1) ⟨rfl, rfl⟩
    fun p b hMem ⟨hWaiting, hConfig⟩ => by
      have hQuiet := (hMid _ hMem).2
      exact ⟨by rw [b.afterCycle_waiting_of_not_tick hQuiet, hWaiting],
        (b.afterCycle_config_of_not_tick hQuiet).trans hConfig⟩
  obtain ⟨hCur, hStep, -⟩ := step_listed hIn' hRst
  have hTick' : b.currentIn.cfgTick = true := hCur ▸ hTick
  have hp : handOffAfter b.waiting b.currentIn = p := by
    rw [hWaiting, hCur]
    exact (List.foldl_concat ..).symm
  refine ⟨_, reaches_snoc hReach hStep, ?_, b.afterCycle_cfgPendValid_of_tick hTick', ?_⟩
  · rw [b.afterCycle_config_of_tick hTick', hp, hConfig]
  · rw [b.afterCycle_cfgPendBit, hp]

/-! A config write lands (R187) -/

/-- The schedule ahead of every state is admissible: past the listed inputs it is one of gaps (R9, R187). -/
theorem Bridge.schedule_admissible (b : Bridge c) : Admissible b.schedule := by
  intro t
  obtain ⟨u, hLe, hOn⟩ := gapSchedule_admissible Config.anyTickGap (b.time + (t + b.inputs.length))
  refine ⟨u - b.time, by omega, ?_⟩
  have hPast : b.inputs[u - b.time]? = none := List.getElem?_eq_none (by omega)
  rw [Bridge.schedule, hPast]
  simpa [show b.time + (u - b.time) = u by omega] using hOn

@[simp] theorem Bridge.afterCycle_schedule (b : Bridge c) (k : Nat) : b.afterCycle.schedule k = b.schedule (k + 1) :=
  (Bridge.schedule_congr (b := b.takeInput) (by simp) (by simp) k).trans (b.takeInput_schedule k)

/-- After every step, a reset included, the schedule ahead is what followed its own cycle. -/
theorem step_schedule {s t : State} (h : step s = .next t) (k : Nat) : t.br.schedule k = s.br.schedule (k + 1) := by
  cases hRst : s.br.currentIn.rst with
  | true =>
    cases (step_of_rst hRst).symm.trans h
    exact (Bridge.schedule_congr (b := s.br.takeInput) (by simp) (by simp) k).trans (s.br.takeInput_schedule k)
  | false =>
    cases (step_of_not_rst hRst).symm.trans h
    exact s.br.afterCycle_schedule k

/-- The steps take their update points from the schedule ahead of the state they start in. -/
theorem reaches_cfgTick {k : Nat} {s t : State} (h : Reaches k s t) : t.br.currentIn.cfgTick = s.br.schedule k := by
  induction k generalizing s with
  | zero =>
    cases h
    exact Bridge.currentIn_cfgTick _
  | succ k ih =>
    obtain ⟨u, hStep, hRest⟩ := reaches_succ_first h
    rw [ih hRest, step_schedule hStep]

/-- No listed cycle is a reset or holds a config write; past the list none does. -/
def Bridge.NoConfigWrite (b : Bridge c) : Prop := ∀ i ∈ b.inputs, i.rst = false ∧ i.wrCfg = false

theorem Bridge.NoConfigWrite.currentIn {b : Bridge c} (h : b.NoConfigWrite) :
    b.currentIn.rst = false ∧ b.currentIn.wrCfg = false := by
  unfold Bridge.currentIn
  split
  next i rest hIn => exact h i (hIn ▸ List.mem_cons_self)
  next => exact ⟨rfl, rfl⟩

theorem Bridge.NoConfigWrite.afterCycle {b : Bridge c} (h : b.NoConfigWrite) : b.afterCycle.NoConfigWrite := fun i hi =>
  h i (List.mem_of_mem_tail (b.afterCycle_inputs ▸ hi))

/-- A cycle without reset or config write keeps what waits up to its update point. -/
theorem step_of_noConfigWrite {b : Bridge c} {p : Bool × Bool} (h : b.NoConfigWrite) (hWaits : b.waiting = p) :
    step ⟨c, b⟩ = .next ⟨c, b.afterCycle⟩ ∧ handOffAfter b.waiting b.currentIn = p := by
  obtain ⟨hRst, hWr⟩ := h.currentIn
  exact ⟨step_of_not_rst hRst, (handOffAfter_of_not_wrCfg _ hWr).trans hWaits⟩

/-- A waiting bit that no config write follows lands by the `n`-th cycle if that one ends with an update point: at the first update
point on the way. -/
theorem lands_of_waiting (n : Nat) {b : Bridge c} {v : Bool} (hNone : b.NoConfigWrite) (hWaits : b.waiting = (true, v))
    (hPoint : b.schedule n = true) :
    ∃ (k : Nat) (b' : Bridge c), Reaches (k + 1) ⟨c, b⟩ ⟨c, b'⟩ ∧ b'.config = v ∧ b'.cfgPendValid = false := by
  induction n generalizing b with
  | zero =>
    obtain ⟨hStep, hHeld⟩ := step_of_noConfigWrite hNone hWaits
    exact ⟨0, _, reaches_one hStep, b.afterCycle_of_tick (b.currentIn_cfgTick.trans hPoint) hHeld⟩
  | succ n ih =>
    obtain ⟨hStep, hHeld⟩ := step_of_noConfigWrite hNone hWaits
    cases hTick : b.currentIn.cfgTick with
    | true => exact ⟨0, _, reaches_one hStep, b.afterCycle_of_tick hTick hHeld⟩
    | false =>
      obtain ⟨k, b', hReach, hLanded⟩ := ih hNone.afterCycle ((b.afterCycle_waiting_of_not_tick hTick).trans hHeld)
        ((b.afterCycle_schedule n).trans hPoint)
      exact ⟨k + 1, b', reaches_succ hStep hReach, hLanded⟩

/-- A config write in a cycle without an update point waits over any cycles without either, and the update point after them takes
it. -/
theorem configWrite_waits_and_lands {b : Bridge c} {W T : CycleIn c} {mid rest : List (CycleIn c)}
    (hIn : b.inputs = W :: (mid ++ T :: rest)) (hRstW : W.rst = false) (hRstMid : ∀ i ∈ mid, i.rst = false)
    (hRstT : T.rst = false) (hWrW : W.wrCfg = true) (hTickW : W.cfgTick = false)
    (hMid : ∀ i ∈ mid, i.wrCfg = false ∧ i.cfgTick = false) (hWrT : T.wrCfg = false) (hTickT : T.cfgTick = true) :
    ∃ u u' : Bridge c, Reaches (mid.length + 1) ⟨c, b⟩ ⟨c, u⟩ ∧ u.config = b.config ∧ u.cfgPendValid = true ∧
      Reaches (mid.length + 2) ⟨c, b⟩ ⟨c, u'⟩ ∧ u'.config = configBit c W.smb.data ∧ u'.cfgPendValid = false := by
  obtain ⟨hCurW, hStepW, hInMid⟩ := step_listed hIn hRstW
  have hNoTick : b.currentIn.cfgTick = false := hCurW ▸ hTickW
  have hWritten : b.afterCycle.waiting = (true, configBit c W.smb.data) := by
    rw [b.afterCycle_waiting_of_not_tick hNoTick, hCurW, handOffAfter_of_wrCfg _ hWrW]
  obtain ⟨u, hReach, hInT, hWaits, hConfig⟩ := reaches_invariant
    (fun u => u.waiting = (true, configBit c W.smb.data) ∧ u.config = b.config) hInMid hRstMid
    ⟨hWritten, b.afterCycle_config_of_not_tick hNoTick⟩ fun u hMem ⟨hWaits, hConfig⟩ => by
      obtain ⟨hWr, hTick⟩ := hMid _ hMem
      exact ⟨(u.afterCycle_waiting_of_not_tick hTick).trans ((handOffAfter_of_not_wrCfg _ hWr).trans hWaits),
        (u.afterCycle_config_of_not_tick hTick).trans hConfig⟩
  obtain ⟨hCurT, hStepT, -⟩ := step_listed hInT hRstT
  have hReachT : Reaches (mid.length + 1) ⟨c, b⟩ ⟨c, u⟩ := reaches_succ hStepW hReach
  have hHeld : handOffAfter u.waiting u.currentIn = (true, configBit c W.smb.data) := by
    rw [hCurT, handOffAfter_of_not_wrCfg _ hWrT, hWaits]
  exact ⟨u, u.afterCycle, hReachT, hConfig, congrArg Prod.fst hWaits, reaches_snoc hReachT hStepT,
    u.afterCycle_of_tick (hCurT ▸ hTickT) hHeld⟩

/-- A config write in a cycle with an update point lands there. -/
theorem configWrite_lands_at_once {b : Bridge c} {W : CycleIn c} {rest : List (CycleIn c)} (hIn : b.inputs = W :: rest)
    (hRst : W.rst = false) (hWr : W.wrCfg = true) (hTick : W.cfgTick = true) :
    ∃ b' : Bridge c, Reaches 1 ⟨c, b⟩ ⟨c, b'⟩ ∧ b'.config = configBit c W.smb.data ∧ b'.cfgPendValid = false := by
  obtain ⟨hCur, hStep, -⟩ := step_listed hIn hRst
  have hHeld : handOffAfter b.waiting b.currentIn = (true, configBit c W.smb.data) := by
    rw [hCur, handOffAfter_of_wrCfg _ hWr]
  exact ⟨_, reaches_one hStep, b.afterCycle_of_tick (hCur ▸ hTick) hHeld⟩

/-- A config write that none follows lands: the schedule ahead has an update point. -/
theorem configWrite_lands {b : Bridge c} {W : CycleIn c} {rest : List (CycleIn c)} (hIn : b.inputs = W :: rest)
    (hRst : W.rst = false) (hWr : W.wrCfg = true) (hNone : ∀ i ∈ rest, i.rst = false ∧ i.wrCfg = false) :
    ∃ (k : Nat) (b' : Bridge c), Reaches (k + 1) ⟨c, b⟩ ⟨c, b'⟩ ∧ b'.config = configBit c W.smb.data ∧
      b'.cfgPendValid = false := by
  cases hTick : W.cfgTick with
  | true => exact ⟨0, configWrite_lands_at_once hIn hRst hWr hTick⟩
  | false =>
    obtain ⟨hCur, hStep, hRest⟩ := step_listed hIn hRst
    have hWaits : b.afterCycle.waiting = (true, configBit c W.smb.data) := by
      rw [b.afterCycle_waiting_of_not_tick (hCur ▸ hTick), hCur, handOffAfter_of_wrCfg _ hWr]
    have hNone' : b.afterCycle.NoConfigWrite := by rwa [Bridge.NoConfigWrite, hRest]
    obtain ⟨n, -, hPoint⟩ := b.afterCycle.schedule_admissible 0
    obtain ⟨k, b', hReach, hLanded⟩ := lands_of_waiting n hNone' hWaits hPoint
    exact ⟨k + 1, b', reaches_succ hStep hReach, hLanded⟩

/-- Settles O54: waiting over the cycles between and landing at the update point, at once where the two coincide; the schedule
ahead is admissible and followed by the steps, so a bit that waits meets an update point (R187). -/
theorem configWriteLandsAtUpdatePoint : Obligations.ConfigWriteLandsAtUpdatePoint :=
  ⟨fun _ _ _ _ _ => configWrite_waits_and_lands, fun _ _ _ => configWrite_lands_at_once,
    fun _ b => b.schedule_admissible, fun _ _ _ => reaches_cfgTick, fun _ _ _ => configWrite_lands⟩

end Sys2Proof.Machine
end

section
/-! Reads and writes over several cycles (R81, R82, R161 to R171, R190, R220): what a plain cycle leaves at a location, and what the
cycle after a read answers. -/

namespace Sys2Proof.Machine

variable {c : Config}

/-! What a plain cycle leaves at a location -/

/-- The enable of a half: bit 0 of the low one, bit 1 of the high one (R141). -/
theorem CycleIn.coeffWe_half (i : CycleIn c) (hi : Bool) :
    i.coeffWe.getLsbD hi.toNat = (i.wr && !i.smb.stateSel && (i.smb.sel3 == hi)) := by
  cases hi with
  | false => simpa using i.coeffWe_low
  | true => simpa using i.coeffWe_high

/-- The port signals of a write to a half of a coefficient word. -/
theorem CycleIn.writesHalf_iff {i : CycleIn c} (hRst : i.rst = false) (hi : Bool) (a : Word c.caw) :
    i.WritesHalf hi a ↔ a = coeffAdr c i.smb.low ∧ i.coeffWe.getLsbD hi.toNat = true := by
  rw [i.coeffWe_half, i.wr_eq, hRst, CycleIn.WritesHalf, eq_comm (a := a)]
  simp only [Bool.not_false, Bool.and_true, Bool.and_eq_true, beq_iff_eq, Bool.not_eq_true']
  tauto

/-- The port signals of a write to the exposed part of a state word. -/
theorem CycleIn.writesExposed_iff {i : CycleIn c} (hRst : i.rst = false) (a : Word c.saw) :
    i.WritesExposed a ↔ i.stateWe = true ∧ a = stateAdr c i.smb.low := by
  rw [CycleIn.stateWe, i.wr_eq, hRst, CycleIn.WritesExposed, eq_comm (a := a)]
  simp only [Bool.not_false, Bool.and_true, Bool.and_eq_true, Bool.not_eq_true']
  tauto

theorem CycleIn.WritesHalf.we {i : CycleIn c} {hi : Bool} {a : Word c.caw} (h : i.WritesHalf hi a) : i.smb.we = true := by
  obtain ⟨-, hWe, -⟩ := h
  exact hWe

theorem CycleIn.WritesExposed.we {i : CycleIn c} {a : Word c.saw} (h : i.WritesExposed a) : i.smb.we = true := by
  obtain ⟨-, hWe, -⟩ := h
  exact hWe

/-- A read writes no half. -/
theorem CycleIn.ReadsHalf.not_writesHalf {i : CycleIn c} {hi hi' : Bool} {a a' : Word c.caw} (h : i.ReadsHalf hi a) :
    ¬ i.WritesHalf hi' a' := by
  obtain ⟨-, hWe, -⟩ := h
  intro hWrite
  exact absurd (hWe.symm.trans hWrite.we) (by decide)

/-- A read writes no exposed part. -/
theorem CycleIn.ReadsExposed.not_writesExposed {i : CycleIn c} {a a' : Word c.saw} (h : i.ReadsExposed a) :
    ¬ i.WritesExposed a' := by
  obtain ⟨-, hWe, -⟩ := h
  intro hWrite
  exact absurd (hWe.symm.trans hWrite.we) (by decide)

theorem halfOf_replicateData {w : Nat} (hi : Bool) (d : Word w) : halfOf hi (replicateData d) = d := by
  cases hi with
  | false => exact lowHalf_replicateData d
  | true => exact highHalf_replicateData d

theorem Bridge.halfOf_coeffWrite (b : Bridge c) (hi : Bool) (a x : Word c.caw) (v : Word (c.wCoeff + c.wCoeff)) (en : Word 2) :
    halfOf hi ((b.coeffWrite a v en).coeffWord x) =
      if x = a ∧ en.getLsbD hi.toNat = true then halfOf hi v else halfOf hi (b.coeffWord x) := by
  cases hi with
  | false => exact b.lowHalf_coeffWrite a x v en
  | true => exact b.highHalf_coeffWrite a x v en

section
variable {b : Bridge c} (hPlain : b.currentIn.Plain)
include hPlain

/-- R68: a plain cycle leaves in a half what the port signals let in. -/
theorem Bridge.afterCycle_half (hi : Bool) (a : Word c.caw) : halfOf hi (b.afterCycle.coeffWord a) =
    if a = coeffAdr c b.currentIn.smb.low ∧ b.currentIn.coeffWe.getLsbD hi.toNat = true then b.currentIn.smb.data
      else halfOf hi (b.coeffWord a) := by
  rw [b.afterCycle_coeffWord a (hPlain.coeff_not_named a), Bridge.coeffPortWrite, b.halfOf_coeffWrite, halfOf_replicateData]

theorem Bridge.afterCycle_half_of_writes {hi : Bool} {a : Word c.caw} (h : b.currentIn.WritesHalf hi a) :
    halfOf hi (b.afterCycle.coeffWord a) = b.currentIn.smb.data := by
  rw [Bridge.afterCycle_half hPlain, if_pos ((CycleIn.writesHalf_iff hPlain.1 hi a).1 h)]

theorem Bridge.afterCycle_half_of_not_writes {hi : Bool} {a : Word c.caw} (h : ¬ b.currentIn.WritesHalf hi a) :
    halfOf hi (b.afterCycle.coeffWord a) = halfOf hi (b.coeffWord a) := by
  rw [Bridge.afterCycle_half hPlain, if_neg (mt (CycleIn.writesHalf_iff hPlain.1 hi a).2 h)]

theorem Bridge.afterCycle_exposed_of_writes {a : Word c.saw} (h : b.currentIn.WritesExposed a) :
    exposedPart c (b.afterCycle.stateWord a) = b.currentIn.smb.data := by
  rw [b.afterCycle_stateWord a (hPlain.state_not_named a), if_pos ((CycleIn.writesExposed_iff hPlain.1 a).1 h),
    exposedPart_placeTop]

theorem Bridge.afterCycle_stateWord_of_not_writes {a : Word c.saw} (h : ¬ b.currentIn.WritesExposed a) :
    b.afterCycle.stateWord a = b.stateWord a := by
  rw [b.afterCycle_stateWord a (hPlain.state_not_named a), if_neg (mt (CycleIn.writesExposed_iff hPlain.1 a).2 h)]

/-! What the cycle after a read answers -/

/-- R161 to R165: the cycle after a plain strobed read answers it by the multiplexer, with the captured selects and address. -/
theorem Bridge.afterCycle_of_read (hStb : b.currentIn.smb.stb = true) (hWe : b.currentIn.smb.we = false) {X : CycleIn c}
    (hX : X.Plain) : (b.afterCycle.outputs X).iStb = true ∧ (b.afterCycle.outputs X).iData = b.afterCycle.readMux X.done ∧
      b.afterCycle.rdStateSel = b.currentIn.smb.stateSel ∧ b.afterCycle.rdSel3 = b.currentIn.smb.sel3 ∧
      b.afterCycle.rdAdr = b.currentIn.smb.low := by
  have hRd : b.currentIn.rd = true := by rw [b.currentIn.rd_eq, hStb, hWe, hPlain.1]; rfl
  have hPending : b.afterCycle.rdPending = true := b.afterCycle_rdPending.trans hRd
  have hAlone : b.afterCycle.rdContended = false := by rw [b.afterCycle_rdContended, if_pos hRd, hPlain.2]; rfl
  refine ⟨?_, b.afterCycle.outputs_iData_of_plain hX hPending hAlone, ?_, ?_, ?_⟩
  · exact (b.afterCycle.outputs_iStb_of_not_rst hX.1).trans hPending
  · rw [b.afterCycle_rdStateSel, if_pos hRd]
  · rw [b.afterCycle_rdSel3, if_pos hRd]
  · rw [b.afterCycle_rdAdr, if_pos hRd]

/-- A plain read of a half is answered in the next plain cycle with that half as it was. -/
theorem Bridge.readsHalf_answered {hi : Bool} {a : Word c.caw} (hRead : b.currentIn.ReadsHalf hi a) {X : CycleIn c}
    (hX : X.Plain) :
    (b.afterCycle.outputs X).iStb = true ∧ (b.afterCycle.outputs X).iData = halfOf hi (b.coeffWord a) := by
  have hNotWritten : ¬ b.currentIn.WritesHalf hi a := hRead.not_writesHalf
  obtain ⟨hStb, hWe, hState, hSel, hAdr⟩ := hRead
  obtain ⟨hIStb, hIData, hState', hSel', hAdr'⟩ := Bridge.afterCycle_of_read hPlain hStb hWe hX
  refine ⟨hIStb, ?_⟩
  calc (b.afterCycle.outputs X).iData
    _ = b.afterCycle.readMux X.done := hIData
    _ = halfOf hi (b.afterCycle.coeffWord a) := by
      rw [Bridge.readMux_half _ _ (hState'.trans hState), Bridge.coeffRead, hSel', hSel, hAdr', hAdr]
    _ = halfOf hi (b.coeffWord a) := Bridge.afterCycle_half_of_not_writes hPlain hNotWritten

/-- A plain read of a state word is answered in the next plain cycle with its exposed part as it was. -/
theorem Bridge.readsExposed_answered {a : Word c.saw} (hRead : b.currentIn.ReadsExposed a) {X : CycleIn c} (hX : X.Plain) :
    (b.afterCycle.outputs X).iStb = true ∧ (b.afterCycle.outputs X).iData = exposedPart c (b.stateWord a) := by
  have hNotWritten : ¬ b.currentIn.WritesExposed a := hRead.not_writesExposed
  obtain ⟨hStb, hWe, hState, hSel, hAdr⟩ := hRead
  obtain ⟨hIStb, hIData, hState', hSel', hAdr'⟩ := Bridge.afterCycle_of_read hPlain hStb hWe hX
  refine ⟨hIStb, ?_⟩
  calc (b.afterCycle.outputs X).iData
    _ = b.afterCycle.readMux X.done := hIData
    _ = exposedPart c (b.afterCycle.stateWord a) := by
      rw [Bridge.readMux_exposed _ _ (hState'.trans hState) (hSel'.trans hSel), Bridge.stateRead, hAdr', hAdr]
    _ = exposedPart c (b.stateWord a) := by rw [Bridge.afterCycle_stateWord_of_not_writes hPlain hNotWritten]

end

/-- Settles O46: the status read sets both selects, and the next cycle's response reads its own `done` and the `config` at its
start (R190). -/
theorem statusResponseIsLive : Obligations.StatusResponseIsLive := by
  intro s hRst hStb hWe hState hSel
  obtain ⟨b', hStep, hPending, hState', hSel', -⟩ := step_of_read hRst ⟨hStb, hWe⟩
  obtain ⟨hDistinct, -, -⟩ := s.cfg.statusBitsFit
  refine ⟨b', hStep, fun i hNext => ⟨(b'.outputs_iStb_of_not_rst hNext).trans hPending, ?_⟩⟩
  rw [b'.outputs_iData_status hNext hPending (hState'.trans hState) (hSel'.trans hSel), statusResponse_bit,
    statusResponse_bit, if_pos rfl, if_neg (Ne.symm hDistinct), if_pos rfl]
  exact ⟨rfl, rfl⟩

/-- Settles O47: each read is answered in the next cycle with its half as it was, which the read before it left alone (R171). -/
theorem readsPipeline : Obligations.ReadsPipeline := by
  intro s A B X rest ha hb a b hIn hA hB hX hReadA hReadB
  obtain ⟨rfl, hStepA, hInB⟩ := step_listed hIn hA.1
  obtain ⟨rfl, hStepB, hInX⟩ := step_listed hInB hB.1
  obtain ⟨rfl, hStepX, -⟩ := step_listed hInX hX.1
  obtain ⟨hStbB, hDataB⟩ := Bridge.readsHalf_answered hA hReadA hB
  obtain ⟨hStbX, hDataX⟩ := Bridge.readsHalf_answered hB hReadB hX
  refine ⟨_, _, _, s.br.afterCycle.outs, reaches_snoc (reaches_snoc (reaches_one hStepA) hStepB) hStepX, ?_, hStbB, hDataB,
    hStbX, hDataX.trans (Bridge.afterCycle_half_of_not_writes hA hReadA.not_writesHalf)⟩
  rw [Bridge.afterCycle_outs, Bridge.afterCycle_outs]

/-- A cycle that holds a write leaves no read pending. -/
theorem Bridge.afterCycle_rdPending_of_we {b : Bridge c} (hWe : b.currentIn.smb.we = true) : b.afterCycle.rdPending = false := by
  rw [b.afterCycle_rdPending, b.currentIn.rd_eq, hWe]
  simp

/-- Settles O48: the answer is the location as the read found it, and the write reaches it at the end of the answering cycle
(R82). -/
theorem readBeforeWriteReturnsOld : Obligations.ReadBeforeWriteReturnsOld := by
  intro s R W rest hIn hR hW
  obtain ⟨rfl, hStepR, hInW⟩ := step_listed hIn hR.1
  obtain ⟨rfl, hStepW, -⟩ := step_listed hInW hW.1
  have hReach := reaches_snoc (reaches_one hStepR) hStepW
  refine ⟨fun hi a hRead hWrite => ?_, fun a hRead hWrite => ?_⟩
  · obtain ⟨hStb, hData⟩ := Bridge.readsHalf_answered hR hRead hW
    exact ⟨_, _, _, hReach, Bridge.afterCycle_outs _, hStb, hData, Bridge.afterCycle_half_of_writes hW hWrite,
      Bridge.afterCycle_rdPending_of_we hWrite.we⟩
  · obtain ⟨hStb, hData⟩ := Bridge.readsExposed_answered hR hRead hW
    exact ⟨_, _, _, hReach, Bridge.afterCycle_outs _, hStb, hData, Bridge.afterCycle_exposed_of_writes hW hWrite,
      Bridge.afterCycle_rdPending_of_we hWrite.we⟩

/-- Settles O49: the data stands in the half after the write, every cycle between keeps it, and the read is answered with it
(R81). -/
theorem coefficientReadReturnsLastWrite : Obligations.CoefficientReadReturnsLastWrite := by
  intro s W R X mid rest hi a hIn hW hMid hR hX hWrite hNone hRead
  obtain ⟨rfl, hStepW, hInMid⟩ := step_listed hIn hW.1
  obtain ⟨b, hReach, hInR, hHolds⟩ := reaches_invariant (fun b => halfOf hi (b.coeffWord a) = s.br.currentIn.smb.data) hInMid
    (fun i hMem => (hMid i hMem).1) (Bridge.afterCycle_half_of_writes hW hWrite)
    fun b hMem hHolds => (Bridge.afterCycle_half_of_not_writes (hMid _ hMem) (hNone _ hMem)).trans hHolds
  obtain ⟨rfl, hStepR, hInX⟩ := step_listed hInR hR.1
  obtain ⟨rfl, hStepX, -⟩ := step_listed hInX hX.1
  obtain ⟨hStb, hData⟩ := Bridge.readsHalf_answered hR hRead hX
  exact ⟨_, _, _, reaches_snoc (reaches_snoc (reaches_succ hStepW hReach) hStepR) hStepX, Bridge.afterCycle_outs _, hStb,
    hData.trans hHolds⟩

/-- Settles O50: the data stands in the exposed part after the write, every cycle between keeps the word, and the read is answered
with it (R81). -/
theorem stateReadReturnsLastWrite : Obligations.StateReadReturnsLastWrite := by
  intro s W R X mid rest a hIn hW hMid hR hX hWrite hNone hRead
  obtain ⟨rfl, hStepW, hInMid⟩ := step_listed hIn hW.1
  obtain ⟨b, hReach, hInR, hHolds⟩ := reaches_invariant (fun b => exposedPart s.cfg (b.stateWord a) = s.br.currentIn.smb.data)
    hInMid (fun i hMem => (hMid i hMem).1) (Bridge.afterCycle_exposed_of_writes hW hWrite)
    fun b hMem hHolds => by rw [Bridge.afterCycle_stateWord_of_not_writes (hMid _ hMem) (hNone _ hMem), hHolds]
  obtain ⟨rfl, hStepR, hInX⟩ := step_listed hInR hR.1
  obtain ⟨rfl, hStepX, -⟩ := step_listed hInX hX.1
  obtain ⟨hStb, hData⟩ := Bridge.readsExposed_answered hR hRead hX
  exact ⟨_, _, _, reaches_snoc (reaches_snoc (reaches_succ hStepW hReach) hStepR) hStepX, Bridge.afterCycle_outs _, hStb,
    hData.trans hHolds⟩

/-! Past the listed inputs (R220) -/

/-- Past the last listed cycle the next one is idle, with the engine's standing writes. -/
theorem Bridge.currentIn_of_no_inputs {b : Bridge c} (h : b.inputs = []) :
    b.currentIn = CycleIn.pastEnd c b.draws b.time b.idleEngine := by
  simp [Bridge.currentIn, h]

/-- A cycle without a strobe keeps what was captured. -/
theorem Bridge.afterCycle_sameCapture {b : Bridge c} (h : b.currentIn.rd = false) : SameCapture b b.afterCycle := by
  simp [SameCapture, h]

/-- A cycle without a control strobe keeps every control word. -/
theorem Bridge.afterCycle_sameCtrl {b : Bridge c} (h : ∀ (k : Nat) (hk : k < c.nCh), b.currentIn.ccr[k].stb = false) :
    SameCtrl b b.afterCycle := by
  rw [SameCtrl, b.afterCycle_ctrlWord]
  apply Vector.ext
  intro k hk
  rw [Vector.getElem_zipWith, h k hk]
  rfl

/-- Settles O51: the idle cycle drives no strobe, so nothing is captured, loaded or written but by the engine (R220). -/
theorem idleAfterLastInput : Obligations.IdleAfterLastInput := by
  intro s hEnd
  have hCur := Bridge.currentIn_of_no_inputs hEnd
  have hRst : s.br.currentIn.rst = false := by rw [hCur]; rfl
  have hStb : s.br.currentIn.smb.stb = false := by rw [hCur]; rfl
  have hEngine : s.br.currentIn.engine = s.br.idleEngine := by rw [hCur]; rfl
  have hWr : s.br.currentIn.wr = false := CycleIn.wr_of_not_stb hStb
  have hRd : s.br.currentIn.rd = false := by rw [s.br.currentIn.rd_eq, hStb]; rfl
  have hCoeff : s.br.currentIn.coeffWe = 0 := by rw [s.br.currentIn.coeffWe_eq, hWr]; rfl
  have hState : s.br.currentIn.stateWe = false := by rw [CycleIn.stateWe, hWr]; rfl
  have hCfg : s.br.currentIn.wrCfg = false := by rw [CycleIn.wrCfg, hWr]; rfl
  have hCtrl : ∀ (k : Nat) (hk : k < s.cfg.nCh), s.br.currentIn.ccr[k].stb = false := fun k hk => by
    rw [hCur]
    exact congrArg CcrReq.stb (Vector.getElem_replicate hk)
  refine ⟨_, _, step_of_not_rst hRst, s.br.afterCycle_outs, s.br.outputs_iStb_of_not_rst hRst, hCoeff, hState, hCfg,
    s.br.afterCycle_rdPending.trans hRd, by rw [s.br.afterCycle_inputs, hEnd]; rfl, Bridge.afterCycle_sameCapture hRd,
    Bridge.afterCycle_sameCtrl hCtrl, fun x hKept => ?_, fun x hKept => ?_⟩
  · rw [s.br.afterCycle_coeffWord x (hEngine ▸ hKept)]
    exact (s.br.coeffPortWrite_sameCoeff hCoeff x).symm
  · rw [s.br.afterCycle_stateWord x (hEngine ▸ hKept), hState]
    simp

end Sys2Proof.Machine
end

section
/-! The control buses and the memory bus do not meet (R204): two bridges that agree on the memory bus agree there after a cycle with
the same memory-bus inputs, and give the same responses. -/

namespace Sys2Proof.Machine

variable {c : Config}

/-- Cycles that agree on every input but the control requests differ in those alone. -/
theorem CycleIn.eq_with_ccr {i i' : CycleIn c} (hSmb : i'.smb = i.smb) (hDone : i'.done = i.done) (hTick : i'.cfgTick = i.cfgTick)
    (hRst : i'.rst = i.rst) (hEngine : i'.engine = i.engine) : i' = { i with ccr := i'.ccr } := by
  rw [← hSmb, ← hDone, ← hTick, ← hRst, ← hEngine]

/-- Bridges that agree on the memory bus differ in the control words and the model's own record alone. -/
theorem SameMemoryBus.exists_eq {b b' : Bridge c} (h : SameMemoryBus b b') : ∃ words inputs outs time idle,
    b' = { b with ctrlWord := words, inputs := inputs, outs := outs, time := time, idleEngine := idle } := by
  obtain ⟨hPending, ⟨hState, hSel, hAdr, hContended⟩, ⟨hConfig, hValid, hBit⟩, hCoeff, hStateMem, hDraws⟩ := h
  exact ⟨b'.ctrlWord, b'.inputs, b'.outs, b'.time, b'.idleEngine, Bridge.ext hPending hState hSel hAdr hConfig hValid hBit rfl
    hCoeff hStateMem rfl rfl hDraws rfl rfl hContended⟩

section
variable {b b' : Bridge c} (h : SameMemoryBus b b')
include h

/-- A response reads nothing of a control bus. -/
theorem SameMemoryBus.response (i : CycleIn c) (reqs : Vector (CcrReq c) c.nCh) :
    (b'.outputs { i with ccr := reqs }).iStb = (b.outputs i).iStb ∧
      (b'.outputs { i with ccr := reqs }).iData = (b.outputs i).iData := by
  obtain ⟨_, _, _, _, _, rfl⟩ := h.exists_eq
  exact ⟨rfl, rfl⟩

/-- The listing of R217 computes the registers of the memory bus from those and from the memory-bus inputs. -/
theorem SameMemoryBus.listing (i : CycleIn c) (reqs : Vector (CcrReq c) c.nCh) :
    SameMemoryBus (b.listing i (b.outputs i))
      (b'.listing { i with ccr := reqs } (b'.outputs { i with ccr := reqs })) := by
  obtain ⟨_, _, _, _, _, rfl⟩ := h.exists_eq
  exact ⟨rfl, ⟨rfl, rfl, rfl, rfl⟩, ⟨rfl, rfl, rfl⟩, rfl, rfl, rfl⟩

theorem SameMemoryBus.reset : SameMemoryBus b.takeInput.resetRegs b'.takeInput.resetRegs := by
  obtain ⟨_, _, _, _, _, rfl⟩ := h.exists_eq
  exact ⟨rfl, ⟨rfl, rfl, rfl, rfl⟩, ⟨rfl, rfl, rfl⟩, rfl, rfl, rfl⟩

theorem SameMemoryBus.draw : SameMemoryBus b.draw b'.draw := by
  obtain ⟨_, _, _, _, _, rfl⟩ := h.exists_eq
  exact ⟨rfl, ⟨rfl, rfl, rfl, rfl⟩, ⟨rfl, rfl, rfl⟩, rfl, rfl, rfl⟩

theorem SameMemoryBus.engineWrite (w : EngineWrite) : SameMemoryBus (b.engineWrite w) (b'.engineWrite w) := by
  obtain ⟨_, _, _, _, _, rfl⟩ := h.exists_eq
  cases w with
  | coeff | state => exact ⟨rfl, ⟨rfl, rfl, rfl, rfl⟩, ⟨rfl, rfl, rfl⟩, rfl, rfl, rfl⟩

end

theorem SameMemoryBus.engineWrites {b b' : Bridge c} (h : SameMemoryBus b b') (ws : List EngineWrite) :
    SameMemoryBus (b.engineWrites ws) (b'.engineWrites ws) := by
  induction ws generalizing b b' with
  | nil => exact h
  | cons w ws ih => exact ih (h.engineWrite w)

/-- Settles O59: in a reset and in any other cycle the memory bus goes on by its own registers and inputs (R204). -/
theorem controlDoesNotAffectMemoryBus : Obligations.ControlDoesNotAffectMemoryBus := by
  intro c b b' i i' hSame hIn hIn' hSmb hDone hTick hRst hEngine
  obtain ⟨reqs, rfl⟩ : ∃ reqs, i' = { i with ccr := reqs } := ⟨_, CycleIn.eq_with_ccr hSmb hDone hTick hRst hEngine⟩
  subst hIn
  rcases Bool.eq_false_or_eq_true b.currentIn.rst with hReset | hReset
  · have hReset' : b'.currentIn.rst = true := by rw [hIn']; exact hReset
    refine ⟨_, _, step_of_rst hReset, step_of_rst hReset', ?_, hSame.response _ reqs⟩
    simp only [hIn']
    exact hSame.reset.engineWrites _
  · have hReset' : b'.currentIn.rst = false := by rw [hIn']; exact hReset
    refine ⟨_, _, step_of_not_rst hReset, step_of_not_rst hReset', ?_, hSame.response _ reqs⟩
    simp only [Bridge.afterCycle, hIn']
    exact ((hSame.listing b.currentIn reqs).engineWrites _).draw

end Sys2Proof.Machine
end
